-- ==== Sys2Proof/Word.lean ====
section
/-! DEFINITION. The word types: the byte every transaction moves (R65) and the 13-bit transaction word (R82). -/

namespace Sys2Proof

/-- One data byte: every transaction moves exactly one (R65). -/
abbrev Byte := BitVec 8

/-- The 4-bit register-select code `rs` (R81). -/
abbrev RegSel := BitVec 4

/-- The canonical transaction word `T` (R82): `W` in bit 12, `rs` in bits 11:8, `D` in bits 7:0. -/
abbrev TxnWord := BitVec 13

end Sys2Proof
end

