-- ==== Sys2Proof/Machine/Types.lean ====
section
/-! DEFINITION. The closed types of the machine: the tier, the small enumerations, an extended-palette entry, the
host-shared fields, and what the host may present (a transaction, or a change of host-shared fields). -/

namespace Sys2Proof.Machine

/-- The tier `VARIANT`, a closed type of four values (R3, R4, R222). V0 stands for BT484 and ATT20C504, V1 for BT485,
V2 for ATT20C505, V3 for BT485A. -/
inductive Variant where
  | v0 | v1 | v2 | v3
  deriving DecidableEq, Repr, Inhabited

/-- The output bit depth `H.bpp`: one of 4, 8, 15, 16, 32 (R36). -/
inductive Depth where
  | bpp4 | bpp8 | bpp15 | bpp16 | bpp32
  deriving DecidableEq, Repr, Inhabited

/-- The cursor size `H.curSize`: 32 or 64, square (R38). -/
inductive CursorSize where
  | size32 | size64
  deriving DecidableEq, Repr, Inhabited

/-- The cursor vertical offset `H.curYOff`: 32 or 0 (R38). -/
inductive CursorYOff where
  | off0 | off32
  deriving DecidableEq, Repr, Inhabited

/-- The transfer phase `S.phase`: 0, 1 or 2 (R28). The byte a write at code 0x5 takes next is the red, the green or
the blue one (R127). -/
inductive Phase where
  | p0 | p1 | p2
  deriving DecidableEq, Repr, Inhabited

/-- The number a depth stands for (R36). -/
def Depth.bits : Depth → Nat
  | .bpp4 => 4
  | .bpp8 => 8
  | .bpp15 => 15
  | .bpp16 => 16
  | .bpp32 => 32

/-- The number of pixels a side a cursor size stands for (R38). -/
def CursorSize.pixels : CursorSize → Nat
  | .size32 => 32
  | .size64 => 64

/-- The number of lines a vertical offset stands for (R38). -/
def CursorYOff.lines : CursorYOff → Nat
  | .off0 => 0
  | .off32 => 32

/-- The number of a transfer phase (R28). -/
def Phase.number : Phase → Nat
  | .p0 => 0
  | .p1 => 1
  | .p2 => 2

/-- One entry of the extended palette: the raw bytes as written and the derived packed colour (R29). -/
structure PalEntry where
  r : Byte
  g : Byte
  b : Byte
  packed : BitVec 24
  deriving DecidableEq, Repr, Inhabited

/-- The host-shared fields `H` (R32 to R40): they belong to the HostVideoController, and the block reads and writes them
under the contract of R230. -/
structure HostShared where
  /-- The DAC address counter (R32), 10 bits on V1 and above; on V0 it is 8 bits wide, so at most 0xFF (log 10). -/
  addr : BitVec 10
  /-- The DAC position flag (R33): a host value of which the block uses only whether it is zero (D19, log 9). -/
  pos : Nat
  /-- The DAC status field (R34). -/
  status : BitVec 8
  /-- The DAC precision mode (R35): true for 8-bit, false for 6-bit. -/
  prec8 : Bool
  /-- The output bit depth (R36). -/
  bpp : Depth
  /-- The hardware-cursor enable flag (R37). -/
  curEnable : Bool
  /-- The cursor size (R38). -/
  curSize : CursorSize
  /-- The cursor vertical offset (R38). -/
  curYOff : CursorYOff
  /-- The displayed cursor position across (R39), a signed integer with no wrap and no clamp (D14). -/
  curX : Int
  /-- The displayed cursor position down (R39), as `curX`. -/
  curY : Int
  /-- The overscan colour (R40, D24). -/
  overscan : BitVec 32
  /-- The overscan-enable configuration bit (R40): the block never writes it. -/
  ovEn : Bool
  deriving DecidableEq, Repr, Inhabited

/-- What the host provides beside the tier before the first transaction (R253): which host's palette functions the
instance calls (log 27), which expansion table is in force (log 8), and HOST_INIT (D10). -/
structure HostSetup where
  hostId : Nat
  e6Table : Nat
  hostInit : HostShared
  deriving DecidableEq, Repr, Inhabited

/-- The direction of a transaction with, for a write, its data byte (R80). -/
inductive Access where
  | write (d : Byte)
  | read
  deriving DecidableEq, Repr

/-- The inputs of one transaction (R80). The port offset's width is not given and only its low 2 bits are
significant, so it is a number (log 17). -/
structure Transaction where
  access : Access
  offset : Nat
  sel2 : Bool
  sel3 : Bool
  deriving DecidableEq, Repr

/-- One thing the host does: it issues a transaction, or between transactions it changes host-shared fields (R230; the
whole record after the change, log 7) or puts another expansion table in force (R261, R76; its number, log 8). -/
inductive HostInput where
  | transaction (t : Transaction)
  | sets (h : HostShared)
  | table (n : Nat)
  deriving DecidableEq, Repr

/-- An entry of a transaction's event list (R41): a request of timing recalculation is the only one there is (D13). -/
inductive Event where
  | recalc
  deriving DecidableEq, Repr

end Sys2Proof.Machine
end

