-- ==== Sys2Proof/Config.lean ====
section
/-! DEFINITION. The parameters the spec leaves OPEN (R8), as constants without a body: nothing in Lean can prove
which value one has, so a claim holds for every host. Which host answers is an argument too: the spec does not say
whether two instances have the same host functions (R8, R233, R253), and here they may differ (log 27). -/

namespace Sys2Proof.Config

open Sys2Proof.Machine

/-- HOST_PAL_WRITE (R109, D11): the host's generic palette write at offset `o` with byte `d`, as a change of the
host-shared fields. The first argument is which host the instance is attached to: the spec leaves open whether hosts
differ (log 27). The second is how many host palette calls were made before, so that a host with palette storage of its
own (R64) is one of the functions allowed (log 5). -/
opaque hostPalWrite (hostId n : Nat) (o : BitVec 2) (d : Byte) (h : HostShared) : HostShared

/-- HOST_PAL_READ (R109, D11): the byte and the host-shared fields after the host's generic palette read at offset
`o`. The first two arguments are as in `hostPalWrite` (log 5, log 27). -/
opaque hostPalRead (hostId n : Nat) (o : BitVec 2) (h : HostShared) : Byte × HostShared

/-- E6TO8 (R8, R106, D12): the host's 6-to-8-bit expansion table, 64 entries of 8 bits. The first argument is which
table the host has in force, so that a host that changes its table (R261, R76) is one of the hosts allowed (log 8). -/
opaque e6to8 (table : Nat) (c : BitVec 6) : Byte

end Sys2Proof.Config
end

