-- ==== Sys2Proof/Machine/Capability.lean ====
section
/-! DEFINITION. The CapabilityTable (R20, R101), pure data keyed by the tier; the one mask R8 lists as an optional
parameter; the tier and the HOST_INIT that State.reset takes. -/

namespace Sys2Proof.Machine

/-- `HasExt`: VARIANT ≥ V1 (R101). It opens CUR64, the block at code 0xA, cr3, and cr3's bits in `H.addr`. -/
def hasExt : Variant → Bool
  | .v0 => false
  | .v1 => true
  | .v2 => true
  | .v3 => true

/-- `HasCR4`: VARIANT = V3 (R101). It opens cr4 and the placeholders 0x20 to 0x22. -/
def hasCr4 : Variant → Bool
  | .v0 => false
  | .v1 => false
  | .v2 => false
  | .v3 => true

/-- `AMASK`: 0xFF on V0, 0x3FF on V1 and above (R20, R101). -/
def amask : Variant → BitVec 10
  | .v0 => 0x0FF
  | .v1 => 0x3FF
  | .v2 => 0x3FF
  | .v3 => 0x3FF

/-- The status-ID byte `SID` (R20, R26). -/
def sid : Variant → Byte
  | .v0 => 0x40
  | .v1 => 0x60
  | .v2 => 0xD0
  | .v3 => 0x20

/-- `CR3_READ_MASK` (R8, R172, D6): the mask on cr3 in the cr3 read, at its default (log 14). -/
def cr3ReadMask : Byte := 0x3F

/-- The tier with a raw number, refused outside the four (R222). DESIGN CHOICE (log 26): the spec gives the tiers no
numbers, and the model takes 0, 1, 2, 3 for V0, V1, V2, V3. -/
def variantOfNat : Nat → Option Variant
  | 0 => some .v0
  | 1 => some .v1
  | 2 => some .v2
  | 3 => some .v3
  | _ => none

/-- The tier State.reset takes: the one that has every capability. DESIGN CHOICE (log 3): the spec chooses a tier per
instance (R4), and State.instantiate takes any. -/
def resetVariant : Variant := .v3

/-- The HOST_INIT State.reset takes: the one 95_test_vectors.md part 3 gives its programs. DESIGN CHOICE (log 4):
HOST_INIT is open (D10), and State.instantiate takes any. -/
def resetHostInit : HostShared where
  addr := 0
  pos := 0
  status := 0
  prec8 := false
  bpp := .bpp8
  curEnable := false
  curSize := .size32
  curYOff := .off32
  curX := 0
  curY := 0
  overscan := 0
  ovEn := false

/-- What the host of State.reset provides: HOST_INIT as above. DESIGN CHOICE: its number (log 27) and its table's (log 8)
are 0, and no claim can tell one number from another. -/
def resetSetup : HostSetup where
  hostId := 0
  e6Table := 0
  hostInit := resetHostInit

end Sys2Proof.Machine
end

