-- ==== Sys2Proof/Syntax.lean ====
section
/-! DEFINITION. The instructions: one constructor per row of the opcode table, 16 register-select codes in each
direction (R84). A write carries its data byte `D`; a read carries nothing (R80, D9). -/

namespace Sys2Proof

/-- A register transaction. The constructor names are the table's mnemonics (R84, R89). -/
inductive Instr where
  /-- WR.PWI, code 0x0 (R120). -/
  | wrPwi (d : Byte)
  /-- WR.PD, code 0x1 (R121). -/
  | wrPd (d : Byte)
  /-- WR.PMASK, code 0x2 (R122). -/
  | wrPmask (d : Byte)
  /-- WR.PRI, code 0x3 (R123). -/
  | wrPri (d : Byte)
  /-- WR.EPWI, code 0x4 (R124). -/
  | wrEpwi (d : Byte)
  /-- WR.EPD, code 0x5 (R125). -/
  | wrEpd (d : Byte)
  /-- WR.CR0, code 0x6 (R129). -/
  | wrCr0 (d : Byte)
  /-- WR.EPRI, code 0x7 (R130). -/
  | wrEpri (d : Byte)
  /-- WR.CR1, code 0x8 (R131). -/
  | wrCr1 (d : Byte)
  /-- WR.CR2, code 0x9 (R132). -/
  | wrCr2 (d : Byte)
  /-- WR.IDX, code 0xA (R133). -/
  | wrIdx (d : Byte)
  /-- WR.CRAM, code 0xB (R137). -/
  | wrCram (d : Byte)
  /-- WR.CXL, code 0xC (R138). -/
  | wrCxl (d : Byte)
  /-- WR.CXH, code 0xD (R139). -/
  | wrCxh (d : Byte)
  /-- WR.CYL, code 0xE (R140). -/
  | wrCyl (d : Byte)
  /-- WR.CYH, code 0xF (R141). -/
  | wrCyh (d : Byte)
  /-- RD.PWI, code 0x0 (R160). -/
  | rdPwi
  /-- RD.PD, code 0x1 (R161). -/
  | rdPd
  /-- RD.PMASK, code 0x2 (R162). -/
  | rdPmask
  /-- RD.PRI, code 0x3 (R163). -/
  | rdPri
  /-- RD.EPWI, code 0x4 (R164). -/
  | rdEpwi
  /-- RD.EPD, code 0x5 (R165). -/
  | rdEpd
  /-- RD.CR0, code 0x6 (R166). -/
  | rdCr0
  /-- RD.EPRI, code 0x7 (R167). -/
  | rdEpri
  /-- RD.CR1, code 0x8 (R168). -/
  | rdCr1
  /-- RD.CR2, code 0x9 (R169). -/
  | rdCr2
  /-- RD.IDX, code 0xA (R170). -/
  | rdIdx
  /-- RD.CRAM, code 0xB (R176). -/
  | rdCram
  /-- RD.CXL, code 0xC (R177). -/
  | rdCxl
  /-- RD.CXH, code 0xD (R178). -/
  | rdCxh
  /-- RD.CYL, code 0xE (R179). -/
  | rdCyl
  /-- RD.CYH, code 0xF (R180). -/
  | rdCyh
  deriving DecidableEq, Repr

end Sys2Proof
end

