-- ==== Sys2Proof/WellFormed.lean ====
section
/-! DEFINITION. What is well formed. Every term of `Instr` is a legal transaction, because its only operand is a byte
(R82: every 13-bit word is legal; R85: none traps), so the checks here are on what comes from outside the type: a raw
number offered as a transaction word, a word offered as canonical, a raw tier number, and a host's change of the shared
fields. -/

namespace Sys2Proof

/-- A number is a transaction word iff it has 13 bits (R82). -/
def isTxnWord (n : Nat) : Bool := n < 0x2000

/-- A word is canonical iff it is a write, or a read with its ignored data bits written 0 (R82, D9). -/
def TxnWord.canonical (t : TxnWord) : Bool := t.getLsbD 12 || t.extractLsb' 0 8 == 0

/-- A raw number is a tier iff it is below 4 (R222; the numbers are the model's, log 26). -/
def isTier (n : Nat) : Bool := (Machine.variantOfNat n).isSome

/-- The host's duty on the width of `H.addr` (R230, D23): at most `AMASK`. The duty on `H.curSize` is kept by its type. -/
def hostDuty (v : Machine.Variant) (h : Machine.HostShared) : Bool := h.addr ≤ Machine.amask v

/-- A host input keeps the host's duty: a transaction always does (R254), a change of shared fields when its counter
is within the width (R230, D23), another expansion table always (R261; R230 names no duty on it). -/
def inputOk (v : Machine.Variant) : Machine.HostInput → Bool
  | .transaction _ => true
  | .sets h => hostDuty v h
  | .table _ => true

end Sys2Proof
end

