-- ==== Sys2Proof/Decode.lean ====
section
/-! DEFINITION. The RegisterDecoder (R81), the dispatch of a code to its transaction (R84, R100), the canonical word in
both directions (R82), and the words as bytes for the opcode table. -/

namespace Sys2Proof

open Sys2Proof.Machine

/-- The RegisterDecoder (R81): select line 2 is bit 3, select line 3 is bit 2, the low two bits of the port offset are
bits 1:0. -/
def registerSelect (sel2 sel3 : Bool) (offset : Nat) : RegSel :=
  ((BitVec.ofBool sel2).setWidth 4 <<< 3) ||| ((BitVec.ofBool sel3).setWidth 4 <<< 2) |||
    (BitVec.ofNat 4 offset &&& 0x3#4)

/-- The write at a code, bits 3 down to 0 (R84, R100). -/
def writeAt (rs : RegSel) (d : Byte) : Instr :=
  match rs.getLsbD 3, rs.getLsbD 2, rs.getLsbD 1, rs.getLsbD 0 with
  | false, false, false, false => .wrPwi d
  | false, false, false, true => .wrPd d
  | false, false, true, false => .wrPmask d
  | false, false, true, true => .wrPri d
  | false, true, false, false => .wrEpwi d
  | false, true, false, true => .wrEpd d
  | false, true, true, false => .wrCr0 d
  | false, true, true, true => .wrEpri d
  | true, false, false, false => .wrCr1 d
  | true, false, false, true => .wrCr2 d
  | true, false, true, false => .wrIdx d
  | true, false, true, true => .wrCram d
  | true, true, false, false => .wrCxl d
  | true, true, false, true => .wrCxh d
  | true, true, true, false => .wrCyl d
  | true, true, true, true => .wrCyh d

/-- The read at a code, bits 3 down to 0 (R84, R100). -/
def readAt (rs : RegSel) : Instr :=
  match rs.getLsbD 3, rs.getLsbD 2, rs.getLsbD 1, rs.getLsbD 0 with
  | false, false, false, false => .rdPwi
  | false, false, false, true => .rdPd
  | false, false, true, false => .rdPmask
  | false, false, true, true => .rdPri
  | false, true, false, false => .rdEpwi
  | false, true, false, true => .rdEpd
  | false, true, true, false => .rdCr0
  | false, true, true, true => .rdEpri
  | true, false, false, false => .rdCr1
  | true, false, false, true => .rdCr2
  | true, false, true, false => .rdIdx
  | true, false, true, true => .rdCram
  | true, true, false, false => .rdCxl
  | true, true, false, true => .rdCxh
  | true, true, true, false => .rdCyl
  | true, true, true, true => .rdCyh

/-- Dispatch by direction (R100). -/
def instrAt (rs : RegSel) : Access → Instr
  | .write d => writeAt rs d
  | .read => readAt rs

/-- The instruction a presented transaction is (R80, R81, R100). -/
def decodeTxn (t : Transaction) : Instr :=
  instrAt (registerSelect t.sel2 t.sel3 t.offset) t.access

/-- The direction and data byte of a word (R82): a read ignores bits 7:0 (D9). -/
def wordAccess (t : TxnWord) : Access :=
  if t.getLsbD 12 then .write (t.extractLsb' 0 8) else .read

/-- The instruction a transaction word is (R82). Total: every 13-bit word is legal. -/
def decodeWord (t : TxnWord) : Instr := instrAt (t.extractLsb' 8 4) (wordAccess t)

/-- The pins that present a word's transaction: bits 11 and 10 drive the select lines, bits 9:8 the port offset (R81, R82). -/
def txnOfWord (t : TxnWord) : Transaction where
  access := wordAccess t
  offset := (t.extractLsb' 8 2).toNat
  sel2 := t.getLsbD 11
  sel3 := t.getLsbD 10

/-- Why bytes are no transaction word. -/
inductive DecodeError where
  /-- Fewer than two bytes. -/
  | truncated
  /-- Bits above bit 12 are set: the word has 13 bits (R82). -/
  | notATransactionWord
  deriving DecidableEq, Repr

/-- The transaction word in the first two bytes, the low byte first (a notation of the model's, log 16), and the rest. -/
def wordOfBytes : List Byte → Except DecodeError (TxnWord × List Byte)
  | lo :: hi :: rest =>
    if hi.extractLsb' 5 3 = 0 then .ok (hi.extractLsb' 0 5 ++ lo, rest) else .error .notATransactionWord
  | _ => .error .truncated

/-- The instruction in the first two bytes, and the rest; total on any bytes. -/
def decodeBytes (bs : List Byte) : Except DecodeError (Instr × List Byte) :=
  match wordOfBytes bs with
  | .ok (t, rest) => .ok (decodeWord t, rest)
  | .error e => .error e

/-- A table row's bits as the model's bytes: the bits above `nbits` are 0. -/
def tableBytes (nbits w : Nat) : List Byte :=
  let x := w % 2 ^ nbits
  [BitVec.ofNat 8 x, BitVec.ofNat 8 (x / 0x100)]

/-- The transaction word a table row's bits are, where they are one: a row of more than two bytes is none. -/
def tableWord (nbits w : Nat) : Option TxnWord :=
  if nbits ≤ 16 then
    match wordOfBytes (tableBytes nbits w) with
    | .ok (t, _) => some t
    | .error _ => none
  else none

/-- The instruction this decoder reads from an instruction whose bits are `w`, numbered as the opcode table numbers them. -/
def decodeTableWord (nbits w : Nat) : Option Instr := (tableWord nbits w).map decodeWord

/-- The register-select code of a transaction (R84). -/
def Instr.code : Instr → RegSel
  | .wrPwi _ => 0x0
  | .wrPd _ => 0x1
  | .wrPmask _ => 0x2
  | .wrPri _ => 0x3
  | .wrEpwi _ => 0x4
  | .wrEpd _ => 0x5
  | .wrCr0 _ => 0x6
  | .wrEpri _ => 0x7
  | .wrCr1 _ => 0x8
  | .wrCr2 _ => 0x9
  | .wrIdx _ => 0xA
  | .wrCram _ => 0xB
  | .wrCxl _ => 0xC
  | .wrCxh _ => 0xD
  | .wrCyl _ => 0xE
  | .wrCyh _ => 0xF
  | .rdPwi => 0x0
  | .rdPd => 0x1
  | .rdPmask => 0x2
  | .rdPri => 0x3
  | .rdEpwi => 0x4
  | .rdEpd => 0x5
  | .rdCr0 => 0x6
  | .rdEpri => 0x7
  | .rdCr1 => 0x8
  | .rdCr2 => 0x9
  | .rdIdx => 0xA
  | .rdCram => 0xB
  | .rdCxl => 0xC
  | .rdCxh => 0xD
  | .rdCyl => 0xE
  | .rdCyh => 0xF

/-- The direction of a transaction with its data byte (R80). -/
def Instr.access : Instr → Access
  | .wrPwi d => .write d
  | .wrPd d => .write d
  | .wrPmask d => .write d
  | .wrPri d => .write d
  | .wrEpwi d => .write d
  | .wrEpd d => .write d
  | .wrCr0 d => .write d
  | .wrEpri d => .write d
  | .wrCr1 d => .write d
  | .wrCr2 d => .write d
  | .wrIdx d => .write d
  | .wrCram d => .write d
  | .wrCxl d => .write d
  | .wrCxh d => .write d
  | .wrCyl d => .write d
  | .wrCyh d => .write d
  | .rdPwi => .read
  | .rdPd => .read
  | .rdPmask => .read
  | .rdPri => .read
  | .rdEpwi => .read
  | .rdEpd => .read
  | .rdCr0 => .read
  | .rdEpri => .read
  | .rdCr1 => .read
  | .rdCr2 => .read
  | .rdIdx => .read
  | .rdCram => .read
  | .rdCxl => .read
  | .rdCxh => .read
  | .rdCyl => .read
  | .rdCyh => .read

/-- Whether a transaction is a read. -/
def Instr.isRead (i : Instr) : Bool := i.access == .read

/-- The canonical word of a transaction: `0x1000 | (rs << 8) | D` for a write, `rs << 8` for a read (R82). -/
def encode (i : Instr) : TxnWord :=
  match i.access with
  | .write d => 0x1000#13 ||| (i.code.setWidth 13 <<< 8) ||| d.setWidth 13
  | .read => i.code.setWidth 13 <<< 8

/-- The word as the two bytes of `wordOfBytes`, the low byte first (log 16). -/
def encodeBytes (i : Instr) : List Byte :=
  [(encode i).extractLsb' 0 8, ((encode i).extractLsb' 8 5).setWidth 8]

end Sys2Proof
end

