-- ==== Sys2Proof/Machine/State.lean ====
section
/-! DEFINITION. The machine's state, all the spec gives it (10_state.md), the reasons a step can stop, and the state an
instance is created in (R48, R250). -/

namespace Sys2Proof.Machine

/-- A cursor buffer: the bytes that are not 0x00, as (index, byte) pairs, indices strictly rising. A byte it does not
list is 0x00, the contents every cursor byte has at instantiation (R30, R48). -/
abbrev Memory := List Host.Cell

/-- What a byte that a buffer does not list reads as (R30, log 15). -/
def unlistedByte : BitVec 8 := 0x00

/-- Every index of a buffer is above `lo`, and the indices rise strictly. -/
def risingFrom : Nat → Memory → Bool
  | _, [] => true
  | lo, (a, _) :: m => lo ≤ a && risingFrom (a + 1) m

/-- The canonical form: indices strictly rising, no entry equal to what an unlisted byte reads as. -/
def Memory.wf (m : Memory) : Bool := risingFrom 0 m && m.all (fun c => c.2 != unlistedByte)

/-- Every index listed is below `n`, the buffer's size (R30). -/
def Memory.within (n : Nat) (m : Memory) : Bool := m.all (fun c => c.1 < n)

/-- Why the machine stops with a fault. It never does: no transaction raises an exception, traps, faults, stalls or
hangs (R220), so the type has no constructor (log 22). -/
inductive Fault where
  deriving DecidableEq, Repr

/-- Why a step or an instantiation is refused. -/
inductive Refusal where
  /-- An instruction that has no meaning yet, raised by `exec`'s arm. Safe: the model stops. -/
  | notModelled (mnemonic : String)
  /-- The host set `H.addr` outside the tier's width, which its duty forbids, so there is no such step (R230, D23,
  log 7). Raised by `step` on a host input, never by a transaction. Safe: the model stops. -/
  | hostOutsideWidth
  /-- An instance was asked for with a number that is no tier (R222). Raised by `instantiateRaw`, never by a step. Safe. -/
  | unrecognizedVariant (n : Nat)
  /-- A step of an instance that does not exist (R253). Raised by `stepInstance` only. Safe. -/
  | noSuchInstance
  deriving DecidableEq, Repr

/-- One instance of the block with its host-shared fields, the outputs of its latest transaction, and what its host
does next. -/
structure State where
  /-- The tier (R4). No step changes it. -/
  variant : Variant
  /-- Command register 0 (R21). -/
  cr0 : BitVec 8
  /-- Command register 1 (R22). -/
  cr1 : BitVec 8
  /-- Command register 2 (R23). -/
  cr2 : BitVec 8
  /-- Command register 3 (R24); on V0 it keeps 0x00. -/
  cr3 : BitVec 8
  /-- Command register 4 (R25); below V3 it keeps 0x00. -/
  cr4 : BitVec 8
  /-- The extended address (R27). -/
  extAddr : BitVec 8
  /-- The transfer phase (R28). -/
  phase : Phase
  /-- The staged red byte (R28). -/
  stR : BitVec 8
  /-- The staged green byte (R28). -/
  stG : BitVec 8
  /-- The extended palette (R29). -/
  extPal : Vector PalEntry 4
  /-- CUR32, 256 bytes (R30). -/
  cur32 : Memory
  /-- CUR64, 1024 bytes, V1 and above (R30). -/
  cur64 : Memory
  /-- The cursor X counter (R31). -/
  curXcnt : BitVec 12
  /-- The cursor Y counter (R31). -/
  curYcnt : BitVec 12
  /-- The host-shared fields (R32 to R40). -/
  host : HostShared
  /-- The event list of the latest transaction (R41). -/
  events : List Event
  /-- The byte the latest transaction delivered to the host: none after a write (R11, R80, R100, log 12). -/
  readData : Option (BitVec 8)
  /-- What the host does next, oldest first (R44, R72, R230, log 1). -/
  inputs : List HostInput
  /-- The model's own field: how many host palette calls were made; it makes each call's result free (log 5). -/
  hostCalls : Nat
  /-- The model's own field: which host's palette functions the instance calls, so that two instances may have different
  hosts (R8, R233, R253, log 27). No step changes it. -/
  hostId : Nat
  /-- The model's own field: which expansion table E6TO8 the host has in force (R8, log 8). Only a host change between
  transactions changes it (R261, R76), no transaction (R8). -/
  e6Table : Nat
  deriving DecidableEq, Repr

/-- Instantiation (R250, R48): every core-owned field is 0, the cursor size is 32, and every other host-shared field is
HOST_INIT's. It appends no event, calls no host function and does not run the BppResolver. -/
def State.instantiate (v : Variant) (setup : HostSetup) : State where
  variant := v
  cr0 := 0
  cr1 := 0
  cr2 := 0
  cr3 := 0
  cr4 := 0
  extAddr := 0
  phase := .p0
  stR := 0
  stG := 0
  extPal := Vector.replicate 4 { r := 0, g := 0, b := 0, packed := 0 }
  cur32 := []
  cur64 := []
  curXcnt := 0
  curYcnt := 0
  host := { setup.hostInit with curSize := .size32 }
  events := []
  readData := none
  inputs := []
  hostCalls := 0
  hostId := setup.hostId
  e6Table := setup.e6Table

/-- The machine right after instantiation (R48, R250), with the tier of log 3 and the HOST_INIT of log 4. -/
def State.reset : State := State.instantiate resetVariant resetSetup

end Sys2Proof.Machine
end

