-- ==== Sys2Proof/Machine/Operands.lean ====
section
/-! DEFINITION. Operand assembly (R83): how each code uses the data byte, and the operands taken from state (the
sub-address of code 0xA, the cursor-RAM index of code 0xB, the extended-palette entry of code 0x5). -/

namespace Sys2Proof.Machine

/-- The port offset a code hands the host at codes 0x0 to 0x2: `rs & 3` (R109, R81). -/
def portOffset (rs : RegSel) : BitVec 2 := rs.extractLsb' 0 2

/-- The extended address loaded at codes 0x4 and 0x7: `(D + (rs & 1)) & 0xFF` (R124, R130). -/
def extAddrOperand (rs : RegSel) (d : Byte) : Byte := d + (rs &&& 0x1#4).setWidth 8

/-- The extended-palette entry: `S.extAddr & 3` (R63). -/
def extEntry (s : State) : BitVec 2 := s.extAddr.extractLsb' 0 2

/-- cr3 bits 1:0 in the place of counter bits 9:8: `(cr3 & 3) << 8` (R24, R65). -/
def cr3AddrBits (cr3 : Byte) : BitVec 10 := (cr3 &&& 0x3#8).setWidth 10 <<< 8

/-- The counter with cr3 bits 1:0 ORed into bits 9:8 where the tier has them (R120, R123). -/
def orCr3Bits (v : Variant) (cr3 : Byte) (a : BitVec 10) : BitVec 10 :=
  if hasExt v then a ||| cr3AddrBits cr3 else a

/-- The sub-address of code 0xA: `H.addr & 0xFF` (R103, C2). -/
def subAddress (s : State) : Byte := s.host.addr.setWidth 8

/-- The cursor-RAM index of a write at code 0xB: `H.addr & 0x3FF` (R105). -/
def cursorWriteIndex (s : State) : BitVec 10 := s.host.addr &&& 0x3FF#10

/-- The cursor-RAM index of a read at code 0xB: `(H.addr - 1) mod 0x400`, 0x3FF for 0 (R105, D28). -/
def cursorReadIndex (s : State) : BitVec 10 := s.host.addr - 1#10

/-- A counter with its low byte replaced: `(cnt & 0xF00) | D` (R138, R140). -/
def mergeLow (cnt : BitVec 12) (d : Byte) : BitVec 12 := (cnt &&& 0xF00#12) ||| d.setWidth 12

/-- A counter with its high nibble replaced: `(cnt & 0x0FF) | ((D & 0x0F) << 8)`; D bits 7:4 are dropped (R139, R141, D22). -/
def mergeHigh (cnt : BitVec 12) (d : Byte) : BitVec 12 :=
  (cnt &&& 0x0FF#12) ||| ((d &&& 0x0F#8).setWidth 12 <<< 8)

/-- A counter's low byte: `cnt & 0xFF` (R177, R179). -/
def counterLow (cnt : BitVec 12) : Byte := cnt.setWidth 8

/-- A counter's high nibble: `(cnt >> 8) & 0x0F` (R178, R180). -/
def counterHigh (cnt : BitVec 12) : Byte := (cnt >>> 8).setWidth 8 &&& 0x0F#8

end Sys2Proof.Machine
end

