-- ==== Sys2Proof/Machine/Flags.lean ====
section
/-! DEFINITION. The status-type values (R45): the DAC position flag and status the block writes, and the status byte it
reports. There are no condition codes. -/

namespace Sys2Proof.Machine

/-- The DAC status a code writes: `rs & 3` (R123, R124, R130, D4, D5). -/
def dacStatus (rs : RegSel) : BitVec 8 := (rs &&& 0x3#4).setWidth 8

/-- `H.pos <- 0; H.status <- rs & 3` (R123, R124, R130). -/
def resetPosition (rs : RegSel) (h : HostShared) : HostShared :=
  { h with pos := 0, status := dacStatus rs }

/-- `StatusByte = SID | (0x04 if H.pos ≠ 0 else 0x00)` (R108, D30). -/
def statusByte (s : State) : Byte :=
  sid s.variant ||| (if s.host.pos = 0 then 0x00#8 else 0x04#8)

end Sys2Proof.Machine
end

