-- ==== Sys2Proof/Machine/Ops.lean ====
section
/-! DEFINITION. The shared operations: a transaction's start and end, bytes of a cursor buffer, the palette's entries,
the address counter, the host calls, the displayed position. The block takes no exception and returns from none (R220,
R226, R227), so no operation for either stands here. -/

namespace Sys2Proof.Machine

/-! ### A transaction's frame (R11, R100) -/

/-- Every transaction starts with an empty event list (R41, R100), and has delivered no byte yet (R80). -/
def beginTransaction (s : State) : State := { s with events := [], readData := none }

/-- A write runs its rule and completes (R100, R220); it returns no byte. -/
def completeWrite (rule : State → State) (s : State) : Host.Outcome State Fault Refusal :=
  .next (rule (beginTransaction s))

/-- A read runs its rule, completes, and delivers the rule's byte to the host (R100, R220). -/
def completeRead (rule : State → Byte × State) (s : State) : Host.Outcome State Fault Refusal :=
  .next { (rule (beginTransaction s)).2 with readData := some (rule (beginTransaction s)).1 }

/-- `RequestRecalc()`: append one timing-recalculation request to the transaction's event list (R10, R41). -/
def requestRecalc (s : State) : State := { s with events := s.events ++ [Event.recalc] }

/-- The host-shared fields replaced, the core-owned ones kept. -/
def withHost (s : State) (h : HostShared) : State := { s with host := h }

/-! ### Bytes of a cursor buffer (R30, R62) -/

/-- `MemRead(B, i, 1)` (R10). -/
def readByte : Memory → Nat → Byte
  | [], _ => unlistedByte
  | (b, v) :: m, a => if b = a then v else readByte m a

/-- The entry to list for a byte: none where an unlisted byte already reads as it. -/
def listed (a : Nat) (v : Byte) : Memory := if v = unlistedByte then [] else [(a, v)]

/-- `MemWrite(B, i, 1, v)` (R10), keeping the canonical form. -/
def writeByte : Memory → Nat → Byte → Memory
  | [], a, v => listed a v
  | (b, w) :: m, a, v =>
    if a < b then listed a v ++ (b, w) :: m
    else if a = b then listed a v ++ m
    else (b, w) :: writeByte m a v

/-- The two cursor buffers (R62). -/
inductive CursorBuffer where
  | cur32 | cur64
  deriving DecidableEq, Repr

/-- `CursorSelect(i)` (R105, C1): the buffer and the index masked into it. -/
def cursorSelect (s : State) (i : BitVec 10) : CursorBuffer × Nat :=
  if hasExt s.variant && s.host.curSize == .size64 then (.cur64, (i &&& 0x3FF#10).toNat)
  else (.cur32, (i &&& 0xFF#10).toNat)

/-- The contents of a buffer. -/
def bufferOf (s : State) : CursorBuffer → Memory
  | .cur32 => s.cur32
  | .cur64 => s.cur64

/-- The byte at a selected place (R176). -/
def loadCursor (s : State) (at_ : CursorBuffer × Nat) : Byte := readByte (bufferOf s at_.1) at_.2

/-- The byte stored at a selected place (R137). -/
def storeCursor (s : State) (at_ : CursorBuffer × Nat) (d : Byte) : State :=
  match at_.1 with
  | .cur32 => { s with cur32 := writeByte s.cur32 at_.2 d }
  | .cur64 => { s with cur64 := writeByte s.cur64 at_.2 d }

/-! ### The extended palette (R29, R106) -/

/-- Entry `i` of the extended palette. -/
def palEntry (s : State) (i : BitVec 2) : PalEntry := s.extPal[i.toNat]'i.isLt

/-- Entry `i` of the extended palette replaced. -/
def setPalEntry (s : State) (i : BitVec 2) (e : PalEntry) : State :=
  { s with extPal := s.extPal.set i.toNat e i.isLt }

/-- One component expanded from its low 6 bits (R106). -/
def expand6 (table : Nat) (c : Byte) : Byte := Config.e6to8 table (c.extractLsb' 0 6)

/-- `PackColour(r, g, b)` (R106): red in bits 23:16; the precision mode and the expansion table are those of the call. -/
def packColour (prec8 : Bool) (table : Nat) (r g b : Byte) : BitVec 24 :=
  if prec8 then r ++ g ++ b else expand6 table r ++ expand6 table g ++ expand6 table b

/-! ### The address counter (R104) -/

/-- A counter plus one, wrapped to the tier's width: `(a + 1) & AMASK` (R68, R110). -/
def nextAddr (v : Variant) (a : BitVec 10) : BitVec 10 := (a + 1#10) &&& amask v

/-- `IncAddr()` (R104). -/
def incAddr (s : State) : State := withHost s { s.host with addr := nextAddr s.variant s.host.addr }

/-! ### The displayed cursor position (R107) -/

/-- Counter minus size, a signed integer with no wrap and no clamp (R107, D14). -/
def displayed (cnt : BitVec 12) (size : CursorSize) : Int := (cnt.toNat : Int) - (size.pixels : Int)

/-- `RecalcX()` (R107). -/
def recalcX (s : State) : State := withHost s { s.host with curX := displayed s.curXcnt s.host.curSize }

/-- `RecalcY()` (R107). -/
def recalcY (s : State) : State := withHost s { s.host with curY := displayed s.curYcnt s.host.curSize }

/-! ### Host delegation (R109) -/

/-- The host's duty on the counter's width (R230, D23), kept by masking what a host call leaves (log 6). -/
def keepWidth (v : Variant) (h : HostShared) : HostShared := { h with addr := h.addr &&& amask v }

/-- `HostPalWrite(o, D)` (R109): the host may change any host-shared field and nothing of the core-owned state. -/
def hostPalWrite (o : BitVec 2) (d : Byte) (s : State) : State :=
  { s with
    host := keepWidth s.variant (Config.hostPalWrite s.hostId s.hostCalls o d s.host)
    hostCalls := s.hostCalls + 1 }

/-- `HostPalRead(o)` (R109): as `hostPalWrite`, with a byte the host chooses. -/
def hostPalRead (o : BitVec 2) (s : State) : Byte × State :=
  ((Config.hostPalRead s.hostId s.hostCalls o s.host).1,
   { s with
     host := keepWidth s.variant (Config.hostPalRead s.hostId s.hostCalls o s.host).2
     hostCalls := s.hostCalls + 1 })

/-! ### The gate of code 0xA (R102) -/

/-- `SubRegGate = HasExt and (S.cr0[7] = 1)` (R102). -/
def subRegGate (s : State) : Bool := hasExt s.variant && s.cr0.getLsbD 7

/-! ### Construction from a raw number (R222, R250) -/

/-- Instantiation by a raw tier number: refused outside the four (R222, R250). The numbers are the model's (log 26). -/
def instantiateRaw (n : Nat) (setup : HostSetup) : Host.Outcome State Fault Refusal :=
  match variantOfNat n with
  | some v => .next (State.instantiate v setup)
  | none => .refused (.unrecognizedVariant n)

end Sys2Proof.Machine
end

