-- ==== Sys2Proof/Machine/BppResolver.lean ====
section
/-! DEFINITION. The BppResolver (43_bpp_resolver.md): the output bit depth from cr1 and cr2, and one timing-recalculation
request. Two write rules call it (R202). -/

namespace Sys2Proof.Machine

/-- The depth from cr2 bit 5, cr1 bits 6:5 and cr1 bit 3 (R200, R203). -/
def resolveDepth (cr1 cr2 : Byte) : Depth :=
  if cr2.getLsbD 5 then
    match cr1.getLsbD 6, cr1.getLsbD 5 with
    | false, false => .bpp32
    | false, true => if cr1.getLsbD 3 then .bpp16 else .bpp15
    | true, false => .bpp8
    | true, true => .bpp4
  else .bpp8

/-- `BppResolver()` (R200, R201): the depth is written, then one recalculation is requested. -/
def bppResolver (s : State) : State :=
  requestRecalc (withHost s { s.host with bpp := resolveDepth s.cr1 s.cr2 })

end Sys2Proof.Machine
end

