-- ==== Sys2Proof/Machine/CommandRegs.lean ====
section
/-! DEFINITION. Codes 0x6, 0x8 and 0x9, command registers 0 to 2, in both directions (R129, R131, R132, R166, R168, R169). -/

namespace Sys2Proof.Machine

/-- WR.CR0 (R129): bit 1 becomes the DAC precision. -/
def execWrCr0 (d : Byte) : State → Host.Outcome State Fault Refusal :=
  completeWrite fun s => { withHost s { s.host with prec8 := d.getLsbD 1 } with cr0 := d }

/-- WR.CR1 (R131). -/
def execWrCr1 (d : Byte) : State → Host.Outcome State Fault Refusal :=
  completeWrite fun s => bppResolver { s with cr1 := d }

/-- WR.CR2 (R132): the cursor is enabled iff bits 1:0 are not both 0. -/
def execWrCr2 (d : Byte) : State → Host.Outcome State Fault Refusal :=
  completeWrite fun s =>
    bppResolver { withHost s { s.host with curEnable := d &&& 0x3#8 != 0#8 } with cr2 := d }

/-- RD.CR0 (R166). -/
def execRdCr0 : State → Host.Outcome State Fault Refusal :=
  completeRead fun s => (s.cr0, s)

/-- RD.CR1 (R168). -/
def execRdCr1 : State → Host.Outcome State Fault Refusal :=
  completeRead fun s => (s.cr1, s)

/-- RD.CR2 (R169). -/
def execRdCr2 : State → Host.Outcome State Fault Refusal :=
  completeRead fun s => (s.cr2, s)

end Sys2Proof.Machine
end

