-- ==== Sys2Proof/Machine/Cursor.lean ====
section
/-! DEFINITION. Code 0xB, the cursor RAM, and codes 0xC to 0xF, the cursor position counters, in both directions (R137 to
R141, R176 to R180). -/

namespace Sys2Proof.Machine

/-- WR.CRAM (R137): the byte goes to the index in the counter, then the counter advances. -/
def execWrCram (d : Byte) : State → Host.Outcome State Fault Refusal :=
  completeWrite fun s => incAddr (storeCursor s (cursorSelect s (cursorWriteIndex s)) d)

/-- RD.CRAM (R176): the byte one below the counter; then the counter advances. -/
def execRdCram : State → Host.Outcome State Fault Refusal :=
  completeRead fun s => (loadCursor s (cursorSelect s (cursorReadIndex s)), incAddr s)

/-- WR.CXL (R138). -/
def execWrCxl (d : Byte) : State → Host.Outcome State Fault Refusal :=
  completeWrite fun s => recalcX { s with curXcnt := mergeLow s.curXcnt d }

/-- WR.CXH (R139). -/
def execWrCxh (d : Byte) : State → Host.Outcome State Fault Refusal :=
  completeWrite fun s => recalcX { s with curXcnt := mergeHigh s.curXcnt d }

/-- WR.CYL (R140). -/
def execWrCyl (d : Byte) : State → Host.Outcome State Fault Refusal :=
  completeWrite fun s => recalcY { s with curYcnt := mergeLow s.curYcnt d }

/-- WR.CYH (R141). -/
def execWrCyh (d : Byte) : State → Host.Outcome State Fault Refusal :=
  completeWrite fun s => recalcY { s with curYcnt := mergeHigh s.curYcnt d }

/-- RD.CXL (R177). -/
def execRdCxl : State → Host.Outcome State Fault Refusal :=
  completeRead fun s => (counterLow s.curXcnt, s)

/-- RD.CXH (R178). -/
def execRdCxh : State → Host.Outcome State Fault Refusal :=
  completeRead fun s => (counterHigh s.curXcnt, s)

/-- RD.CYL (R179). -/
def execRdCyl : State → Host.Outcome State Fault Refusal :=
  completeRead fun s => (counterLow s.curYcnt, s)

/-- RD.CYH (R180). -/
def execRdCyh : State → Host.Outcome State Fault Refusal :=
  completeRead fun s => (counterHigh s.curYcnt, s)

end Sys2Proof.Machine
end

