-- ==== Sys2Proof/Machine/ExtPalette.lean ====
section
/-! DEFINITION. Codes 0x4, 0x5 and 0x7, the extended palette, in both directions (R124 to R128, R130, R164, R165, R167). -/

namespace Sys2Proof.Machine

/-- WR.EPWI (R124). The transfer state is not touched (D3). -/
def execWrEpwi (d : Byte) : State → Host.Outcome State Fault Refusal :=
  completeWrite fun s =>
    { withHost s (resetPosition 0x4 s.host) with extAddr := extAddrOperand 0x4 d }

/-- WR.EPRI (R130). The transfer state is not touched (D3). -/
def execWrEpri (d : Byte) : State → Host.Outcome State Fault Refusal :=
  completeWrite fun s =>
    { withHost s (resetPosition 0x7 s.host) with extAddr := extAddrOperand 0x7 d }

/-- `OverscanUpdate(i)` (R126): completing entry 0 with overscan enabled copies its packed colour, and a change of the
overscan colour requests a recalculation. -/
def overscanUpdate (i : BitVec 2) (s : State) : State :=
  if i = 0 ∧ s.host.ovEn then
    let new := (palEntry s 0).packed.setWidth 32
    let t := withHost s { s.host with overscan := new }
    if new ≠ s.host.overscan then requestRecalc t else t
  else s

/-- The third byte of a transfer (R125, phase 2): entry `S.extAddr & 3` gets the staged bytes, the blue byte and their
packed colour. -/
def completeEntry (d : Byte) (s : State) : State :=
  let i := extEntry s
  let entry : PalEntry :=
    { r := s.stR, g := s.stG, b := d, packed := packColour s.host.prec8 s.e6Table s.stR s.stG d }
  let s := overscanUpdate i (setPalEntry s i entry)
  { s with extAddr := s.extAddr + 1#8, phase := .p0 }

/-- WR.EPD (R125, R127): one byte of the three-byte write. -/
def execWrEpd (d : Byte) : State → Host.Outcome State Fault Refusal :=
  completeWrite fun s =>
    let s := withHost s { s.host with status := 0 }
    match s.phase with
    | .p0 => { s with stR := d, phase := .p1 }
    | .p1 => { s with stG := d, phase := .p2 }
    | .p2 => completeEntry d s

/-- RD.EPWI (R164): the whole extended address. -/
def execRdEpwi : State → Host.Outcome State Fault Refusal :=
  completeRead fun s => (s.extAddr, s)

/-- The blue byte a read at code 0x5 returns (R165). -/
def blueRead (prec8 : Bool) (b : Byte) : Byte := if prec8 then b else b &&& 0x3F#8

/-- RD.EPD (R165): the entry's blue byte; the transfer phase goes to 0 and the extended address advances (D8, C6). -/
def execRdEpd : State → Host.Outcome State Fault Refusal :=
  completeRead fun s =>
    (blueRead s.host.prec8 (palEntry s (extEntry s)).b, { s with phase := .p0, extAddr := s.extAddr + 1#8 })

/-- RD.EPRI (R167): as code 0x4; no `+1` on the read side. -/
def execRdEpri : State → Host.Outcome State Fault Refusal :=
  completeRead fun s => (s.extAddr, s)

end Sys2Proof.Machine
end

