-- ==== Sys2Proof/Machine/MainPalette.lean ====
section
/-! DEFINITION. Codes 0x0 to 0x3, the main-palette ports, in both directions (R120 to R123, R160 to R163). -/

namespace Sys2Proof.Machine

/-- WR.PWI (R120): the host's palette write; then, on V1 and above, cr3 bits 1:0 are ORed into the counter the host left. -/
def execWrPwi (d : Byte) : State → Host.Outcome State Fault Refusal :=
  completeWrite fun s =>
    let s := hostPalWrite (portOffset 0x0) d s
    withHost s { s.host with addr := orCr3Bits s.variant s.cr3 s.host.addr }

/-- WR.PD (R121). -/
def execWrPd (d : Byte) : State → Host.Outcome State Fault Refusal :=
  completeWrite fun s => hostPalWrite (portOffset 0x1) d s

/-- WR.PMASK (R122). -/
def execWrPmask (d : Byte) : State → Host.Outcome State Fault Refusal :=
  completeWrite fun s => hostPalWrite (portOffset 0x2) d s

/-- WR.PRI (R123): position and status reset, the counter loaded from the byte and cr3, then advanced. -/
def execWrPri (d : Byte) : State → Host.Outcome State Fault Refusal :=
  completeWrite fun s =>
    let s := withHost s (resetPosition 0x3 s.host)
    withHost s { s.host with addr := nextAddr s.variant (orCr3Bits s.variant s.cr3 (d.setWidth 10)) }

/-- RD.PWI (R160). -/
def execRdPwi : State → Host.Outcome State Fault Refusal :=
  completeRead fun s => hostPalRead (portOffset 0x0) s

/-- RD.PD (R161). -/
def execRdPd : State → Host.Outcome State Fault Refusal :=
  completeRead fun s => hostPalRead (portOffset 0x1) s

/-- RD.PMASK (R162). -/
def execRdPmask : State → Host.Outcome State Fault Refusal :=
  completeRead fun s => hostPalRead (portOffset 0x2) s

/-- RD.PRI (R163): the counter's low byte. -/
def execRdPri : State → Host.Outcome State Fault Refusal :=
  completeRead fun s => (s.host.addr.setWidth 8, s)

end Sys2Proof.Machine
end

