-- ==== Sys2Proof/Machine/SubRegisters.lean ====
section
/-! DEFINITION. Code 0xA, the indexed sub-register block, in both directions (R133 to R136, R170 to R175). -/

namespace Sys2Proof.Machine

/-- The cursor size cr3 bit 2 selects (R24, R134). -/
def cr3CursorSize (d : Byte) : CursorSize := if d.getLsbD 2 then .size64 else .size32

/-- The vertical offset that goes with a size (R134). -/
def yOffFor : CursorSize → CursorYOff
  | .size32 => .off32
  | .size64 => .off0

/-- Counter bits 9:8 replaced by cr3 bits 1:0: `(H.addr & 0xFF) | ((cr3 & 3) << 8)` (R134, D7). -/
def replaceHighBits (a : BitVec 10) (cr3 : Byte) : BitVec 10 := (a &&& 0xFF#10) ||| cr3AddrBits cr3

/-- `WriteCR3(D)` (R134): size and offset, then both positions with the new size, then the counter's high bits, then one
recalculation request. -/
def writeCr3 (d : Byte) (s : State) : State :=
  let size := cr3CursorSize d
  let s := { withHost s { s.host with curSize := size, curYOff := yOffFor size } with cr3 := d }
  let s := recalcY (recalcX s)
  requestRecalc (withHost s { s.host with addr := replaceHighBits s.host.addr s.cr3 })

/-- WR.IDX (R133): cr3 (R134), cr4 on V3 (R135), and a no-op in every other case (R136). -/
def execWrIdx (d : Byte) : State → Host.Outcome State Fault Refusal :=
  completeWrite fun s =>
    let sub := subAddress s
    if !subRegGate s then s
    else if sub = 0x01 then writeCr3 d s
    else if sub = 0x02 ∧ hasCr4 s.variant then { s with cr4 := d }
    else s

/-- `CR3Read = (S.cr3 & CR3_READ_MASK) | ((H.addr >> 8) & 0x3)` (R172, D6). -/
def cr3Read (s : State) : Byte :=
  (s.cr3 &&& cr3ReadMask) ||| ((s.host.addr >>> 8).setWidth 8 &&& 0x3#8)

/-- The byte a read at code 0xA returns (R170 to R175). -/
def subRegisterRead (s : State) : Byte :=
  let sub := subAddress s
  if !subRegGate s then statusByte s
  else if sub = 0x00 then statusByte s
  else if sub = 0x01 then cr3Read s
  else if hasCr4 s.variant ∧ sub = 0x02 then s.cr4
  else if hasCr4 s.variant ∧ (sub = 0x20 ∨ sub = 0x21 ∨ sub = 0x22) then 0xFF
  else statusByte s

/-- RD.IDX (R170): no read at code 0xA changes any state. -/
def execRdIdx : State → Host.Outcome State Fault Refusal :=
  completeRead fun s => (subRegisterRead s, s)

end Sys2Proof.Machine
end

