-- ==== Sys2Proof/Machine/Dispatch.lean ====
section
/-! DEFINITION. The dispatcher's table (R100): one meaning per transaction. -/

namespace Sys2Proof.Machine

open Sys2Proof

def exec (i : Instr) (s : State) : Host.Outcome State Fault Refusal :=
  match i with
  | .wrPwi d => Sys2Proof.Machine.execWrPwi d s
  | .wrPd d => Sys2Proof.Machine.execWrPd d s
  | .wrPmask d => Sys2Proof.Machine.execWrPmask d s
  | .wrPri d => Sys2Proof.Machine.execWrPri d s
  | .wrEpwi d => Sys2Proof.Machine.execWrEpwi d s
  | .wrEpd d => Sys2Proof.Machine.execWrEpd d s
  | .wrCr0 d => Sys2Proof.Machine.execWrCr0 d s
  | .wrEpri d => Sys2Proof.Machine.execWrEpri d s
  | .wrCr1 d => Sys2Proof.Machine.execWrCr1 d s
  | .wrCr2 d => Sys2Proof.Machine.execWrCr2 d s
  | .wrIdx d => Sys2Proof.Machine.execWrIdx d s
  | .wrCram d => Sys2Proof.Machine.execWrCram d s
  | .wrCxl d => Sys2Proof.Machine.execWrCxl d s
  | .wrCxh d => Sys2Proof.Machine.execWrCxh d s
  | .wrCyl d => Sys2Proof.Machine.execWrCyl d s
  | .wrCyh d => Sys2Proof.Machine.execWrCyh d s
  | .rdPwi => Sys2Proof.Machine.execRdPwi s
  | .rdPd => Sys2Proof.Machine.execRdPd s
  | .rdPmask => Sys2Proof.Machine.execRdPmask s
  | .rdPri => Sys2Proof.Machine.execRdPri s
  | .rdEpwi => Sys2Proof.Machine.execRdEpwi s
  | .rdEpd => Sys2Proof.Machine.execRdEpd s
  | .rdCr0 => Sys2Proof.Machine.execRdCr0 s
  | .rdEpri => Sys2Proof.Machine.execRdEpri s
  | .rdCr1 => Sys2Proof.Machine.execRdCr1 s
  | .rdCr2 => Sys2Proof.Machine.execRdCr2 s
  | .rdIdx => Sys2Proof.Machine.execRdIdx s
  | .rdCram => Sys2Proof.Machine.execRdCram s
  | .rdCxl => Sys2Proof.Machine.execRdCxl s
  | .rdCxh => Sys2Proof.Machine.execRdCxh s
  | .rdCyl => Sys2Proof.Machine.execRdCyl s
  | .rdCyh => Sys2Proof.Machine.execRdCyh s

end Sys2Proof.Machine
end

