-- ==== Sys2Proof/Machine/Step.lean ====
section
/-! DEFINITION. One step: the host's next input is taken and acted on (R44, R72, R230). -/

namespace Sys2Proof.Machine

/-- One step of an instance with its host. A transaction is decoded (R81) and run to its end as one indivisible step
(R67, R100); a change of host-shared fields takes effect between transactions if it keeps the host's duty, and has no
step if it does not (R230, D23, log 7); another expansion table replaces the one in force and recomputes nothing (R261,
log 8); with no input the block does nothing (R235, log 2). -/
def step (s : State) : Host.Outcome State Fault Refusal :=
  match s.inputs with
  | [] => .next s
  | .transaction t :: rest => exec (decodeTxn t) { s with inputs := rest }
  | .sets h :: rest =>
    if hostDuty s.variant h then .next { s with inputs := rest, host := h }
    else .refused .hostOutsideWidth
  | .table n :: rest => .next { s with inputs := rest, e6Table := n }

/-- The state in which the host's next input is the transaction whose word is `w` (log 1). A number that is no
transaction word presents nothing. -/
def State.withFetchWord (s : State) (nbits w : Nat) : State :=
  match tableWord nbits w with
  | some t => { s with inputs := .transaction (txnOfWord t) :: s.inputs }
  | none => s

end Sys2Proof.Machine
end

