-- ==== Sys2Proof/Machine/Instances.lean ====
section
/-! DEFINITION. Several instances (R233): each has its own state and tier, and they share nothing (D32). Whether two
have the same host functions the spec leaves open; each names its own host in `hostId`, equal or not (log 27). -/

namespace Sys2Proof.Machine

/-- A step of instance `k` of several (R233); the others are not touched. A transaction needs an existing instance
(R253), so a step of one that does not exist is refused. -/
def stepInstance (k : Nat) (instances : List State) : Host.Outcome (List State) Fault Refusal :=
  match instances[k]? with
  | none => .refused .noSuchInstance
  | some s =>
    match step s with
    | .next t => .next (instances.set k t)
    | .fault f => .fault f
    | .refused r => .refused r

end Sys2Proof.Machine
end

