-- ==== Sys2Proof/Safety.lean ====
section
/-! DEFINITION. What claims about runs are stated in: the invariant every step keeps (R47 and the rules that hold a field
at its reset value on a lower tier), the host's duty on what it does next (R230), and the sets of transactions that the
whole-machine rules name. -/

namespace Sys2Proof.Machine

/-- A cursor buffer is in canonical form and lists no index outside its size (R30, R47). -/
abbrev Memory.Ok (size : Nat) (m : Memory) : Prop := m.wf = true ∧ m.within size = true

/-- The invariant of the machine (R47): the counter is within `AMASK` (R32), both cursor buffers are canonical and
within their sizes (R30), what a tier lacks keeps its reset value (R24, R25, R30), and a transaction's event list has at
most one request (R224). -/
abbrev State.Inv (s : State) : Prop :=
  hostDuty s.variant s.host = true ∧ s.cur32.Ok 256 ∧ s.cur64.Ok 1024 ∧
    (hasExt s.variant = false → s.cr3 = 0 ∧ s.cur64 = []) ∧ (hasCr4 s.variant = false → s.cr4 = 0) ∧
    s.events.length ≤ 1

/-- Everything the host does next keeps its duty (R230). -/
abbrev State.HostKeepsDuty (s : State) : Prop := ∀ x ∈ s.inputs, inputOk s.variant x = true

/-- A transaction as the spec names it in prose: "a write at code `c`" is `(false, c)`, "a read at code `c`" is
`(true, c)`. -/
def place (i : Instr) : Bool × RegSel := (i.isRead, i.code)

/-- A write of cr3: a write at code 0xA with the gate open and sub-address 1 (R133, R134, R102, R103). -/
abbrev isCr3Write (i : Instr) (s : State) : Prop :=
  place i = (false, 0xA) ∧ (s.variant ≠ .v0 ∧ 128 ≤ s.cr0.toNat) ∧ s.host.addr.toNat % 256 = 1

/-- The third byte of a three-byte write: a write at code 0x5 at phase 2 (R125, R127). -/
abbrev isThirdByte (i : Instr) (s : State) : Prop := place i = (false, 0x5) ∧ s.phase = .p2

/-- The six transactions handed to the host's palette mechanism: codes 0x0 to 0x2 (R109). -/
def delegated (i : Instr) : Bool := i.code ≤ 0x2

end Sys2Proof.Machine
end

