-- ==== Sys2Proof/Certificates/Slice0/Obligations.lean ====
section
/-! DEFINITION. The statements for the provers, from the spec's numbered rules. Values are written as the spec's own
arithmetic (remainders and sums), not through the model's operations, wherever a rule gives them. In a next state
`events` is the transaction's event list (R41), and `readData` is the byte a read delivers, or `none`, because no write
returns a byte (R11, R80; log 12). -/

open Sys2Proof Sys2Proof.Machine

/-! ### Encoding and decoding -/

/-- Every transaction comes back from its word, from the pins that present its word, from its bytes (whatever follows
them) and from the opcode table's numbering (R82; the byte layout is the model's, log 16). -/
def Obligations.DecodeOfEncodeIsIdentity : Prop :=
  ∀ (i : Instr) (rest : List Byte),
    decodeWord (encode i) = i ∧ decodeTxn (txnOfWord (encode i)) = i ∧
      decodeBytes (encodeBytes i ++ rest) = .ok (i, rest) ∧ decodeTableWord 16 (encode i).toNat = some i

/-- Every 13-bit word is a transaction: encoding what it decodes to gives it back, but for the ignored data bits of a
read, and exactly so for a canonical word (R82, D9). -/
def Obligations.EncodeOfDecodeIsCanonical : Prop :=
  ∀ t : TxnWord,
    encode (decodeWord t) = (if t.getLsbD 12 then t else t &&& 0x1F00) ∧
      (TxnWord.canonical t = true ↔ encode (decodeWord t) = t)

/-- R82: the word's fields, in both directions; every 13-bit number is a transaction and no other number is. -/
def Obligations.TransactionWordLayout : Prop :=
  (∀ (rs : RegSel) (d : Byte), (encode (writeAt rs d)).toNat = 0x1000 + rs.toNat * 256 + d.toNat) ∧
    (∀ rs : RegSel, (encode (readAt rs)).toNat = rs.toNat * 256) ∧
    (∀ t : TxnWord,
      (decodeWord t).code.toNat = t.toNat / 256 % 16 ∧
        (decodeWord t).access = if t.toNat < 0x1000 then .read else .write (BitVec.ofNat 8 (t.toNat % 256))) ∧
    (∀ n : Nat, n < 65536 → ((decodeTableWord 16 n).isSome = true ↔ n < 0x2000))

/-- R81: the register-select code from the pins; only the low two bits of the offset count. -/
def Obligations.RegisterSelectFormula : Prop :=
  ∀ (sel2 sel3 : Bool) (offset : Nat),
    (registerSelect sel2 sel3 offset).toNat =
        (if sel2 then 8 else 0) + (if sel3 then 4 else 0) + offset % 4 ∧
      (registerSelect sel2 sel3 offset).toNat % 4 = offset % 4

/-- R100's table: the transaction the dispatcher runs for each code, in each direction, whatever pins form the code. -/
def Obligations.DispatcherTable : Prop :=
  ∀ (sel2 sel3 : Bool) (offset : Nat) (d : Byte),
    let rs := (if sel2 then 8 else 0) + (if sel3 then 4 else 0) + offset % 4
    some (decodeTxn { access := .write d, offset := offset, sel2 := sel2, sel3 := sel3 }) =
        [Instr.wrPwi d, .wrPd d, .wrPmask d, .wrPri d, .wrEpwi d, .wrEpd d, .wrCr0 d, .wrEpri d, .wrCr1 d, .wrCr2 d,
          .wrIdx d, .wrCram d, .wrCxl d, .wrCxh d, .wrCyl d, .wrCyh d][rs]? ∧
      some (decodeTxn { access := .read, offset := offset, sel2 := sel2, sel3 := sel3 }) =
        [Instr.rdPwi, .rdPd, .rdPmask, .rdPri, .rdEpwi, .rdEpd, .rdCr0, .rdEpri, .rdCr1, .rdCr2, .rdIdx, .rdCram,
          .rdCxl, .rdCxh, .rdCyl, .rdCyh][rs]?

/-- A word of each family, written out from the spec's encodings and vectors, decodes to its transaction. -/
def Obligations.SampleWordsDecode : Prop :=
  decodeTableWord 16 0x1010 = some (.wrPwi 0x10) ∧ decodeTableWord 16 0x13FF = some (.wrPri 0xFF) ∧
    decodeTableWord 16 0x0300 = some .rdPri ∧ decodeTableWord 16 0x1511 = some (.wrEpd 0x11) ∧
    decodeTableWord 16 0x0500 = some .rdEpd ∧ decodeTableWord 16 0x16A5 = some (.wrCr0 0xA5) ∧
    decodeTableWord 16 0x19C3 = some (.wrCr2 0xC3) ∧ decodeTableWord 16 0x1A06 = some (.wrIdx 0x06) ∧
    decodeTableWord 16 0x0A7F = some .rdIdx ∧ decodeTableWord 16 0x1BFF = some (.wrCram 0xFF) ∧
    decodeTableWord 16 0x1DFF = some (.wrCxh 0xFF) ∧ decodeTableWord 16 0x0F00 = some .rdCyh

/-! ### The step -/

/-- A step with a transaction at the head of the input stream decodes its pins and runs that instruction, on the state
in which the transaction has been taken from the stream (R100; the stream is the model's, log 1). -/
def Obligations.StepRunsPresentedTransaction : Prop :=
  ∀ (t : Transaction) (rest : List HostInput) (s : State),
    s.inputs = .transaction t :: rest → step s = exec (decodeTxn t) { s with inputs := rest }

/-- Placing a 13-bit word as the next instruction and stepping runs exactly the word's instruction on the state as it
was, whether the word is given as 13 bits or as two bytes (log 1). -/
def Obligations.StepRunsPlacedWord : Prop :=
  ∀ (t : TxnWord) (s : State),
    step (s.withFetchWord 16 t.toNat) = exec (decodeWord t) s ∧
      step (s.withFetchWord 13 t.toNat) = exec (decodeWord t) s

/-- Between transactions the host may change host-shared fields and nothing else of the state (R230); a change that leaves
the counter outside the tier's width has no step (D23, log 7); it may put another expansion table in force, and that
changes nothing else, no packed colour and no overscan colour (R261, log 8); with nothing to do the block does nothing
(R235, log 2). -/
def Obligations.StepTakesHostChanges : Prop :=
  (∀ (h : HostShared) (rest : List HostInput) (s : State), s.inputs = .sets h :: rest →
    step s = if s.variant = .v0 ∧ 256 ≤ h.addr.toNat then .refused .hostOutsideWidth
      else .next { s with inputs := rest, host := h }) ∧
    (∀ (n : Nat) (rest : List HostInput) (s : State), s.inputs = .table n :: rest →
      step s = .next { s with inputs := rest, e6Table := n }) ∧
    (∀ s : State, s.inputs = [] → step s = .next s)

/-! ### Codes 0x0 to 0x3 -/

/-- The three writes handed to the host complete: host-shared fields become what the instance's host (log 27) leaves, its
counter cut to the tier's width (log 6), the host call is counted (log 5), no core-owned field changes; and code 0x0 alone ORs cr3 bits
1:0 into counter bits 9:8, on V1 and above. -/
def Obligations.HostPaletteWritesComplete : Prop :=
  ∀ (d : Byte) (s : State),
    let width := if s.variant = .v0 then 256 else 1024
    let left := fun o : BitVec 2 => Config.hostPalWrite s.hostId s.hostCalls o d s.host
    let counter := fun o : BitVec 2 => BitVec.ofNat 10 ((left o).addr.toNat % width)
    let after := fun (o : BitVec 2) (a : BitVec 10) =>
      { s with events := [], readData := none, hostCalls := s.hostCalls + 1, host := { left o with addr := a } }
    exec (.wrPwi d) s = .next (after 0 (if s.variant = .v0 then counter 0
        else counter 0 ||| BitVec.ofNat 10 (s.cr3.toNat % 4 * 256))) ∧
      exec (.wrPd d) s = .next (after 1 (counter 1)) ∧ exec (.wrPmask d) s = .next (after 2 (counter 2))

/-- The three reads handed to the host complete: the byte is that of the instance's host (log 27), host-shared fields become
what it leaves, its counter cut to the tier's width (log 6), the host call is counted (log 5), no core-owned field changes. -/
def Obligations.HostPaletteReadsComplete : Prop :=
  ∀ s : State,
    let width := if s.variant = .v0 then 256 else 1024
    let left := fun o : BitVec 2 => Config.hostPalRead s.hostId s.hostCalls o s.host
    let after := fun o : BitVec 2 =>
      { s with
        events := [], readData := some (left o).1, hostCalls := s.hostCalls + 1,
        host := { (left o).2 with addr := BitVec.ofNat 10 ((left o).2.addr.toNat % width) } }
    exec .rdPwi s = .next (after 0) ∧ exec .rdPd s = .next (after 1) ∧ exec .rdPmask s = .next (after 2)

/-- R123: WR.PRI clears the position flag, writes status 3 and leaves in the counter the loaded index plus one, wrapped
to the tier's width. -/
def Obligations.PaletteReadIndexWrite : Prop :=
  ∀ (d : Byte) (s : State),
    decodeWord (0x1300#13 ||| d.setWidth 13) = .wrPri d ∧
      exec (.wrPri d) s = .next { s with
        events := [], readData := none,
        host := { s.host with
          pos := 0, status := 3,
          addr := BitVec.ofNat 10 (if s.variant = .v0 then (d.toNat + 1) % 256
            else (d.toNat + s.cr3.toNat % 4 * 256 + 1) % 1024) } }

/-- R163: RD.PRI returns the counter's low byte and changes nothing; after a write of D at code 0x3 it is D + 1. -/
def Obligations.PaletteReadIndexRead : Prop :=
  (∀ x : Byte, decodeWord (0x0300#13 ||| x.setWidth 13) = .rdPri) ∧
    (∀ s : State, exec .rdPri s =
      .next { s with events := [], readData := some (BitVec.ofNat 8 (s.host.addr.toNat % 256)) }) ∧
    (∀ (d : Byte) (s : State), ∃ t u, exec (.wrPri d) s = .next t ∧ exec .rdPri t = .next u ∧
      u.readData = some (BitVec.ofNat 8 ((d.toNat + 1) % 256)))

/-! ### Codes 0x4, 0x5, 0x7: the extended palette -/

/-- R124 and R130: the extended-palette index writes clear the position flag, write status 0 or 3, and load the byte, or
the byte plus one; the transfer state is not touched. -/
def Obligations.ExtendedIndexWrites : Prop :=
  ∀ (d : Byte) (s : State),
    decodeWord (0x1400#13 ||| d.setWidth 13) = .wrEpwi d ∧ decodeWord (0x1700#13 ||| d.setWidth 13) = .wrEpri d ∧
      exec (.wrEpwi d) s = .next { s with
        events := [], readData := none, extAddr := d, host := { s.host with pos := 0, status := 0 } } ∧
      exec (.wrEpri d) s = .next { s with
        events := [], readData := none, extAddr := BitVec.ofNat 8 ((d.toNat + 1) % 256),
        host := { s.host with pos := 0, status := 3 } }

/-- R164 and R167: both index reads return the whole extended address and change nothing; after an index write they
return the byte written at code 0x4, and the byte plus one written at code 0x7. -/
def Obligations.ExtendedIndexReads : Prop :=
  (∀ x : Byte, decodeWord (0x0400#13 ||| x.setWidth 13) = .rdEpwi ∧ decodeWord (0x0700#13 ||| x.setWidth 13) = .rdEpri) ∧
    (∀ s : State, ∀ i ∈ [Instr.rdEpwi, .rdEpri],
      exec i s = .next { s with events := [], readData := some s.extAddr }) ∧
    (∀ (d : Byte) (s : State), ∀ i ∈ [Instr.rdEpwi, .rdEpri], ∃ t u v w,
      exec (.wrEpwi d) s = .next t ∧ exec i t = .next u ∧ u.readData = some d ∧
        exec (.wrEpri d) s = .next v ∧ exec i v = .next w ∧ w.readData = some (d + 1))

/-- R125 and R126: one byte of the three-byte write. The status is cleared on every byte; the first two are staged; the
third stores the staged bytes, itself and their packed colour in entry `extAddr mod 4`, copies the packed colour of
entry 0 to the overscan colour when that is enabled, requests a recalculation only when the overscan colour changed, and
advances the extended address. -/
def Obligations.ExtendedPaletteDataWrite : Prop :=
  ∀ (d : Byte) (s : State),
    let packed := packColour s.host.prec8 s.e6Table s.stR s.stG d
    let entry : PalEntry := { r := s.stR, g := s.stG, b := d, packed := packed }
    let copies := s.extAddr.toNat % 4 = 0 ∧ s.host.ovEn = true
    decodeWord (0x1500#13 ||| d.setWidth 13) = .wrEpd d ∧
      exec (.wrEpd d) s = .next (match s.phase with
        | .p0 => { s with
            events := [], readData := none, host := { s.host with status := 0 }, stR := d, phase := .p1 }
        | .p1 => { s with
            events := [], readData := none, host := { s.host with status := 0 }, stG := d, phase := .p2 }
        | .p2 => { s with
            events := if copies ∧ packed.setWidth 32 ≠ s.host.overscan then [.recalc] else [],
            readData := none,
            host := { s.host with
              status := 0, overscan := if copies then packed.setWidth 32 else s.host.overscan },
            extPal := s.extPal.setIfInBounds (s.extAddr.toNat % 4) entry,
            extAddr := BitVec.ofNat 8 ((s.extAddr.toNat + 1) % 256), phase := .p0 })

/-- R106: the packed colour, red in bits 23:16, with the precision mode of the call; in 6-bit mode each component is
expanded from its low six bits by the host's table in force (which table is the model's index, log 8). -/
def Obligations.PackedColourLayout : Prop :=
  ∀ (prec8 : Bool) (table : Nat) (r g b : Byte),
    let expanded := fun c : Byte => (Config.e6to8 table (BitVec.ofNat 6 (c.toNat % 64))).toNat
    (packColour prec8 table r g b).toNat =
      if prec8 then r.toNat * 65536 + g.toNat * 256 + b.toNat
      else expanded r * 65536 + expanded g * 256 + expanded b

/-- Three writes at code 0x5 from phase 0 load one entry: red, green, blue in this order with the packed colour of the
mode in force, the other three entries unchanged, the address advanced by one, the phase back at 0. -/
def Obligations.ThreeWritesLoadOneEntry : Prop :=
  ∀ (r g b : Byte) (s : State), s.phase = .p0 →
    ∃ t u v, exec (.wrEpd r) s = .next t ∧ exec (.wrEpd g) t = .next u ∧ exec (.wrEpd b) u = .next v ∧
      (∀ j : BitVec 2, palEntry v j =
        if j.toNat = s.extAddr.toNat % 4 then
          { r := r, g := g, b := b, packed := packColour s.host.prec8 s.e6Table r g b }
        else palEntry s j) ∧
      v.extAddr = s.extAddr + 1 ∧ v.phase = .p0 ∧ v.stR = r ∧ v.stG = g ∧ v.host.status = 0 ∧ v.host.pos = s.host.pos

/-- R165: RD.EPD returns the entry's blue byte, its low six bits in 6-bit mode, whatever the phase; the phase goes to 0
and the extended address advances; nothing else changes. -/
def Obligations.ExtendedPaletteDataRead : Prop :=
  (∀ x : Byte, decodeWord (0x0500#13 ||| x.setWidth 13) = .rdEpd) ∧
    ∀ s : State,
      let blue := (palEntry s (BitVec.ofNat 2 (s.extAddr.toNat % 4))).b
      exec .rdEpd s = .next { s with
        events := [],
        readData := some (if s.host.prec8 then blue else BitVec.ofNat 8 (blue.toNat % 64)),
        phase := .p0, extAddr := BitVec.ofNat 8 ((s.extAddr.toNat + 1) % 256) }

/-- R128: only a write or a read at code 0x5 changes the transfer phase (no other transaction and no host action does),
and one read at code 0x5 always leaves phase 0. -/
def Obligations.OnlyCode5ChangesThePhase : Prop :=
  (∀ s t : State, step s = .next t → t.phase ≠ s.phase →
    ∃ x rest, s.inputs = .transaction x :: rest ∧
      ((∃ d, decodeTxn x = .wrEpd d) ∨ decodeTxn x = .rdEpd)) ∧
    ∀ s : State, ∃ t, exec .rdEpd s = .next t ∧ t.phase = .p0

/-- The packed colour of an entry is computed only when the entry's blue byte is written: no other transaction and no
host action changes an entry, and that write changes one entry alone (R29, R76, R261). -/
def Obligations.OnlyTheThirdByteChangesAnEntry : Prop :=
  ∀ s t : State, step s = .next t → t.extPal ≠ s.extPal →
    s.phase = .p2 ∧ (∃ x rest d, s.inputs = .transaction x :: rest ∧ decodeTxn x = .wrEpd d) ∧
      ∀ j : BitVec 2, j.toNat ≠ s.extAddr.toNat % 4 → palEntry t j = palEntry s j

/-! ### Codes 0x6, 0x8, 0x9: command registers -/

/-- R129: WR.CR0 stores the byte and makes bit 1 the DAC precision; no packed colour is recomputed, the BppResolver is
not called. -/
def Obligations.CommandRegister0Write : Prop :=
  ∀ (d : Byte) (s : State),
    decodeWord (0x1600#13 ||| d.setWidth 13) = .wrCr0 d ∧
      exec (.wrCr0 d) s = .next { s with
        events := [], readData := none, cr0 := d, host := { s.host with prec8 := decide (d.toNat / 2 % 2 = 1) } }

/-- R131, R132, R200, R201, R203: WR.CR1 and WR.CR2 store the byte, resolve the depth from both registers as they then
stand, and request one recalculation, even when nothing changed; WR.CR2 also sets the cursor enable from bits 1:0. -/
def Obligations.CommandRegister1And2Writes : Prop :=
  ∀ (d : Byte) (s : State),
    let depth := fun cr1 cr2 : Byte =>
      if cr2.toNat / 32 % 2 = 0 then Depth.bpp8
      else if cr1.toNat / 32 % 4 = 0 then .bpp32
      else if cr1.toNat / 32 % 4 = 1 then (if cr1.toNat / 8 % 2 = 1 then .bpp16 else .bpp15)
      else if cr1.toNat / 32 % 4 = 2 then .bpp8
      else .bpp4
    decodeWord (0x1800#13 ||| d.setWidth 13) = .wrCr1 d ∧ decodeWord (0x1900#13 ||| d.setWidth 13) = .wrCr2 d ∧
      exec (.wrCr1 d) s = .next { s with
        events := [.recalc], readData := none, cr1 := d, host := { s.host with bpp := depth d s.cr2 } } ∧
      exec (.wrCr2 d) s = .next { s with
        events := [.recalc], readData := none, cr2 := d,
        host := { s.host with curEnable := decide (d.toNat % 4 ≠ 0), bpp := depth s.cr1 d } }

/-- R166, R168, R169: the command-register reads return all eight bits of the register and change nothing. -/
def Obligations.CommandRegisterReads : Prop :=
  (∀ x : Byte, decodeWord (0x0600#13 ||| x.setWidth 13) = .rdCr0 ∧ decodeWord (0x0800#13 ||| x.setWidth 13) = .rdCr1 ∧
      decodeWord (0x0900#13 ||| x.setWidth 13) = .rdCr2) ∧
    ∀ s : State,
      exec .rdCr0 s = .next { s with events := [], readData := some s.cr0 } ∧
        exec .rdCr1 s = .next { s with events := [], readData := some s.cr1 } ∧
        exec .rdCr2 s = .next { s with events := [], readData := some s.cr2 }

/-- The source's round trip (95_test_vectors.md S-1): a command register read gives the byte last written, whatever
other transaction runs in between. -/
def Obligations.CommandRegistersHoldTheLastByteWritten : Prop :=
  ∀ (d : Byte) (i : Instr) (s : State),
    (i.code ≠ 0x6 → ∃ t u v, exec (.wrCr0 d) s = .next t ∧ exec i t = .next u ∧ exec .rdCr0 u = .next v ∧
        v.readData = some d) ∧
      (i.code ≠ 0x8 → ∃ t u v, exec (.wrCr1 d) s = .next t ∧ exec i t = .next u ∧ exec .rdCr1 u = .next v ∧
        v.readData = some d) ∧
      (i.code ≠ 0x9 → ∃ t u v, exec (.wrCr2 d) s = .next t ∧ exec i t = .next u ∧ exec .rdCr2 u = .next v ∧
        v.readData = some d)

/-- The order of the writes of cr1 and cr2 does not matter: both orders end in one and the same state (R268). -/
def Obligations.DepthDoesNotDependOnWriteOrder : Prop :=
  ∀ (a b : Byte) (s : State), ∃ t u v w,
    exec (.wrCr1 a) s = .next t ∧ exec (.wrCr2 b) t = .next u ∧
      exec (.wrCr2 b) s = .next v ∧ exec (.wrCr1 a) v = .next w ∧ u = w

/-! ### Code 0xA: the indexed sub-register block -/

/-- R133 to R136: a write at code 0xA with the gate open (V1 and above, cr0 bit 7 set) writes cr3 at sub-address 1, with
the cursor size, the vertical offset, both displayed positions, counter bits 9:8 and one recalculation request, and cr4
at sub-address 2 on V3; in every other case it changes nothing. -/
def Obligations.IndexedWrite : Prop :=
  ∀ (d : Byte) (s : State),
    let sub := s.host.addr.toNat % 256
    let gate := s.variant ≠ .v0 ∧ 128 ≤ s.cr0.toNat
    let size64 := d.toNat / 4 % 2 = 1
    let pixels : Int := if size64 then 64 else 32
    decodeWord (0x1A00#13 ||| d.setWidth 13) = .wrIdx d ∧
      exec (.wrIdx d) s = .next (
        if gate ∧ sub = 1 then { s with
          events := [.recalc], readData := none, cr3 := d,
          host := { s.host with
            curSize := if size64 then .size64 else .size32,
            curYOff := if size64 then .off0 else .off32,
            curX := s.curXcnt.toNat - pixels, curY := s.curYcnt.toNat - pixels,
            addr := BitVec.ofNat 10 (sub + d.toNat % 4 * 256) } }
        else if gate ∧ sub = 2 ∧ s.variant = .v3 then { s with events := [], readData := none, cr4 := d }
        else { s with events := [], readData := none })

/-- R170 to R175: a read at code 0xA changes nothing and returns, with the gate open, cr3's low six bits ORed with
counter bits 9:8 at sub-address 1, cr4 at sub-address 2 and 0xFF at 0x20 to 0x22 on V3, and the status byte in every
other case. -/
def Obligations.IndexedRead : Prop :=
  (∀ x : Byte, decodeWord (0x0A00#13 ||| x.setWidth 13) = .rdIdx) ∧
    ∀ s : State,
      let sub := s.host.addr.toNat % 256
      let gate := s.variant ≠ .v0 ∧ 128 ≤ s.cr0.toNat
      let status : Byte :=
        (match s.variant with
          | .v0 => 0x40
          | .v1 => 0x60
          | .v2 => 0xD0
          | .v3 => 0x20) + (if s.host.pos = 0 then 0 else 4)
      exec .rdIdx s = .next { s with
        events := [],
        readData := some (
          if gate ∧ sub = 1 then
            BitVec.ofNat 8 (s.cr3.toNat % 64) ||| BitVec.ofNat 8 (s.host.addr.toNat / 256)
          else if gate ∧ s.variant = .v3 ∧ sub = 2 then s.cr4
          else if gate ∧ s.variant = .v3 ∧ 0x20 ≤ sub ∧ sub ≤ 0x22 then 0xFF
          else status) }

/-- R108: the status byte has bit 2 set iff the position flag is not zero, and the tier's ID in its other bits; it is
read at code 0xA whenever the gate is closed. -/
def Obligations.StatusByteReportsThePositionFlag : Prop :=
  ∀ s : State,
    statusByte s = sid s.variant ||| (if s.host.pos ≠ 0 then 0x04 else 0x00) ∧
      (statusByte s).getLsbD 2 = decide (s.host.pos ≠ 0) ∧
      (∀ k, k ≠ 2 → (statusByte s).getLsbD k = (sid s.variant).getLsbD k) ∧
      [Variant.v0, .v1, .v2, .v3].map sid = [0x40, 0x60, 0xD0, 0x20]

/-- What is written to a sub-register is read back: cr3's low six bits (its two low bits are then the counter's as well)
and, on V3, the whole of cr4 (R134, R135, R172, R173). -/
def Obligations.SubRegisterReadBack : Prop :=
  ∀ (d : Byte) (s : State), s.variant ≠ .v0 → s.cr0.getLsbD 7 = true →
    (s.host.addr.toNat % 256 = 1 → ∃ t u, exec (.wrIdx d) s = .next t ∧ exec .rdIdx t = .next u ∧
      u.readData = some (d &&& 0x3F)) ∧
    (s.host.addr.toNat % 256 = 2 → s.variant = .v3 → ∃ t u, exec (.wrIdx d) s = .next t ∧ exec .rdIdx t = .next u ∧
      u.readData = some d)

/-! ### Code 0xB: cursor RAM -/

/-- R137: WR.CRAM stores the byte at the counter's index in the selected buffer, masked into CUR32 on every tier, and
advances the counter within the tier's width. Every other byte of both buffers and every other field is unchanged. -/
def Obligations.CursorRamWrite : Prop :=
  ∀ (d : Byte) (s : State),
    let big := s.variant ≠ .v0 ∧ s.host.curSize = .size64
    let index := if big then s.host.addr.toNat else s.host.addr.toNat % 256
    decodeWord (0x1B00#13 ||| d.setWidth 13) = .wrCram d ∧
      cursorSelect s (cursorWriteIndex s) = (if big then .cur64 else .cur32, index) ∧
      ∃ t, exec (.wrCram d) s = .next t ∧
        t = { s with
          events := [], readData := none, cur32 := t.cur32, cur64 := t.cur64,
          host := { s.host with
            addr := BitVec.ofNat 10 ((s.host.addr.toNat + 1) % (if s.variant = .v0 then 256 else 1024)) } } ∧
        (big → t.cur32 = s.cur32) ∧ (¬big → t.cur64 = s.cur64) ∧
        (big → s.cur64.wf = true → ∀ a, readByte t.cur64 a = if a = index then d else readByte s.cur64 a) ∧
        (¬big → s.cur32.wf = true → ∀ a, readByte t.cur32 a = if a = index then d else readByte s.cur32 a)

/-- R176: RD.CRAM returns the byte one below the counter (0x3FF below 0, masked to 0xFF in CUR32) and advances the
counter within the tier's width; nothing else changes. -/
def Obligations.CursorRamRead : Prop :=
  (∀ x : Byte, decodeWord (0x0B00#13 ||| x.setWidth 13) = .rdCram) ∧
    ∀ s : State,
      let below := (s.host.addr.toNat + 1023) % 1024
      exec .rdCram s = .next { s with
        events := [],
        readData := some (if s.variant ≠ .v0 ∧ s.host.curSize = .size64 then readByte s.cur64 below
          else readByte s.cur32 (below % 256)),
        host := { s.host with
          addr := BitVec.ofNat 10 ((s.host.addr.toNat + 1) % (if s.variant = .v0 then 256 else 1024)) } }

/-- After the byte D is written at code 0x3, the next cursor-RAM read returns byte D of CUR32, or of CUR64 the byte
whose index has cr3 bits 1:0 above D (R123, R176). -/
def Obligations.CursorReadAfterReadIndex : Prop :=
  ∀ (d : Byte) (s : State), ∃ t u, exec (.wrPri d) s = .next t ∧ exec .rdCram t = .next u ∧
    u.readData = some (if s.variant ≠ .v0 ∧ s.host.curSize = .size64
      then readByte s.cur64 (d.toNat + s.cr3.toNat % 4 * 256) else readByte s.cur32 d.toNat)

/-- A cursor byte that was stored is read back once its index has been loaded at code 0x3. In CUR64 cr3 bits 1:0 must be
the index's top bits (R264, R266). -/
def Obligations.CursorWriteIsReadBack : Prop :=
  ∀ (x : Byte) (s : State), s.cur32.wf = true → s.cur64.wf = true →
    (s.variant ≠ .v0 → s.host.curSize = .size64 → s.host.addr.toNat / 256 = s.cr3.toNat % 4) →
    ∃ t u v, exec (.wrCram x) s = .next t ∧ exec (.wrPri (s.host.addr.setWidth 8)) t = .next u ∧
      exec .rdCram u = .next v ∧ v.readData = some x

/-- No transaction but WR.CRAM and no host action stores to a cursor buffer: every byte of both reads as before (R30). -/
def Obligations.OnlyCursorRamWritesStore : Prop :=
  (∀ (i : Instr) (s : State), (∀ d, i ≠ .wrCram d) →
    ∃ t, exec i s = .next t ∧ ∀ a, readByte t.cur32 a = readByte s.cur32 a ∧ readByte t.cur64 a = readByte s.cur64 a) ∧
    ∀ s t : State, (∀ x rest, s.inputs ≠ .transaction x :: rest) → step s = .next t →
      ∀ a, readByte t.cur32 a = readByte s.cur32 a ∧ readByte t.cur64 a = readByte s.cur64 a

/-- A write to a canonical buffer keeps it canonical and inside its size, gives the byte back at its index, and leaves
every other byte alone. -/
def Obligations.BufferReadAfterWrite : Prop :=
  ∀ (m : Memory) (n a : Nat) (v : Byte), m.wf = true → m.within n = true → a < n →
    (writeByte m a v).wf = true ∧ (writeByte m a v).within n = true ∧
      ∀ b, readByte (writeByte m a v) b = if b = a then v else readByte m b

/-- Two canonical buffers that read the same at every index are the same data. -/
def Obligations.CanonicalBuffersAreExtensional : Prop :=
  ∀ m m' : Memory, m.wf = true → m'.wf = true → (∀ a, readByte m a = readByte m' a) → m = m'

/-! ### Codes 0xC to 0xF: cursor position -/

/-- R138 to R141: a counter write replaces the low byte, or bits 11:8 from the byte's low nibble, and recomputes that
axis's displayed position as counter minus size; nothing else changes. -/
def Obligations.CursorCounterWrites : Prop :=
  ∀ (d : Byte) (s : State),
    let low := fun c : BitVec 12 => c.toNat / 256 * 256 + d.toNat
    let high := fun c : BitVec 12 => d.toNat % 16 * 256 + c.toNat % 256
    let size : Int := match s.host.curSize with
      | .size32 => 32
      | .size64 => 64
    decodeWord (0x1C00#13 ||| d.setWidth 13) = .wrCxl d ∧ decodeWord (0x1D00#13 ||| d.setWidth 13) = .wrCxh d ∧
      decodeWord (0x1E00#13 ||| d.setWidth 13) = .wrCyl d ∧ decodeWord (0x1F00#13 ||| d.setWidth 13) = .wrCyh d ∧
      exec (.wrCxl d) s = .next { s with
        events := [], readData := none, curXcnt := BitVec.ofNat 12 (low s.curXcnt),
        host := { s.host with curX := (low s.curXcnt : Int) - size } } ∧
      exec (.wrCxh d) s = .next { s with
        events := [], readData := none, curXcnt := BitVec.ofNat 12 (high s.curXcnt),
        host := { s.host with curX := (high s.curXcnt : Int) - size } } ∧
      exec (.wrCyl d) s = .next { s with
        events := [], readData := none, curYcnt := BitVec.ofNat 12 (low s.curYcnt),
        host := { s.host with curY := (low s.curYcnt : Int) - size } } ∧
      exec (.wrCyh d) s = .next { s with
        events := [], readData := none, curYcnt := BitVec.ofNat 12 (high s.curYcnt),
        host := { s.host with curY := (high s.curYcnt : Int) - size } }

/-- R177 to R180: a counter read returns the low byte, or bits 11:8 with 0 above them, and changes nothing. -/
def Obligations.CursorCounterReads : Prop :=
  (∀ x : Byte, decodeWord (0x0C00#13 ||| x.setWidth 13) = .rdCxl ∧ decodeWord (0x0D00#13 ||| x.setWidth 13) = .rdCxh ∧
      decodeWord (0x0E00#13 ||| x.setWidth 13) = .rdCyl ∧ decodeWord (0x0F00#13 ||| x.setWidth 13) = .rdCyh) ∧
    ∀ s : State,
      let after := fun n : Nat => { s with events := [], readData := some (BitVec.ofNat 8 n) }
      exec .rdCxl s = .next (after (s.curXcnt.toNat % 256)) ∧ exec .rdCxh s = .next (after (s.curXcnt.toNat / 256)) ∧
        exec .rdCyl s = .next (after (s.curYcnt.toNat % 256)) ∧ exec .rdCyh s = .next (after (s.curYcnt.toNat / 256))

/-- The displayed position is recomputed only at counter writes (the counter written) and cr3 writes (both axes), of the
transactions the block handles itself, and is then counter minus size, in the range -64 to 4063 (R39, R107, R269). -/
def Obligations.DisplayedPositionIsCounterMinusSize : Prop :=
  ∀ (i : Instr) (s t : State), delegated i = false → exec i s = .next t →
    (t.host.curX ≠ s.host.curX →
      (isCr3Write i s ∨ place i ∈ [(false, 0xC), (false, 0xD)]) ∧
        t.host.curX = (t.curXcnt.toNat : Int) - t.host.curSize.pixels ∧ -64 ≤ t.host.curX ∧ t.host.curX ≤ 4063) ∧
    (t.host.curY ≠ s.host.curY →
      (isCr3Write i s ∨ place i ∈ [(false, 0xE), (false, 0xF)]) ∧
        t.host.curY = (t.curYcnt.toNat : Int) - t.host.curSize.pixels ∧ -64 ≤ t.host.curY ∧ t.host.curY ≤ 4063)

/-! ### The whole machine -/

/-- R220: every transaction, in every state, completes with a next state, and a read, and only a read, with a byte. -/
def Obligations.EveryTransactionCompletes : Prop :=
  ∀ (i : Instr) (s : State), ∃ t, exec i s = .next t ∧ t.readData.isSome = i.isRead

/-- R224: the complete list of the transactions that request a timing recalculation; each requests at most one, and no
read requests any. -/
def Obligations.RecalculationSources : Prop :=
  ∀ (i : Instr) (s t : State), exec i s = .next t →
    t.events =
      if (place i = (false, 0x5) ∧ s.phase = .p2 ∧ s.extAddr.toNat % 4 = 0 ∧ s.host.ovEn = true ∧
            t.host.overscan ≠ s.host.overscan) ∨
          place i = (false, 0x8) ∨ place i = (false, 0x9) ∨
          (place i = (false, 0xA) ∧ s.variant ≠ .v0 ∧ 128 ≤ s.cr0.toNat ∧ s.host.addr.toNat % 256 = 1)
      then [.recalc] else []

/-- The reads at codes 0x3, 0x4, 0x6 to 0xA and 0xC to 0xF change no state and return the same byte when repeated (R69). -/
def Obligations.PlainReadsAreIdempotent : Prop :=
  ∀ (i : Instr) (s : State), i.isRead = true → i.code ∉ [0x0, 0x1, 0x2, 0x5, 0xB] →
    ∃ b, exec i s = .next { s with events := [], readData := some b } ∧
      exec i { s with events := [], readData := some b } = .next { s with events := [], readData := some b }

/-- Each core-owned field is changed only by the transactions the spec names for it, in the tier, gate, sub-address and
phase it names; the six that are handed to the host change none (R4, R21 to R31, R109). The model's own fields: no
transaction changes the input stream (log 1), the host's number (log 27) or the expansion table in force (R8, log 8), and
only the six change the call count (log 5). -/
def Obligations.CoreOwnedFieldWriters : Prop :=
  ∀ (i : Instr) (s t : State), exec i s = .next t →
    t.variant = s.variant ∧
      (t.cr0 ≠ s.cr0 → place i = (false, 0x6)) ∧ (t.cr1 ≠ s.cr1 → place i = (false, 0x8)) ∧
      (t.cr2 ≠ s.cr2 → place i = (false, 0x9)) ∧
      (t.cr3 ≠ s.cr3 → isCr3Write i s) ∧
      (t.cr4 ≠ s.cr4 → place i = (false, 0xA) ∧ 128 ≤ s.cr0.toNat ∧ s.host.addr.toNat % 256 = 2 ∧ s.variant = .v3) ∧
      (t.extAddr ≠ s.extAddr → place i ∈ [(false, 0x4), (false, 0x7), (true, 0x5)] ∨ isThirdByte i s) ∧
      (t.phase ≠ s.phase → place i = (false, 0x5) ∨ place i = (true, 0x5) ∧ s.phase ≠ .p0) ∧
      (t.stR ≠ s.stR → place i = (false, 0x5) ∧ s.phase = .p0) ∧
      (t.stG ≠ s.stG → place i = (false, 0x5) ∧ s.phase = .p1) ∧
      (∀ j : BitVec 2, palEntry t j ≠ palEntry s j → isThirdByte i s ∧ j.toNat = s.extAddr.toNat % 4) ∧
      (t.cur32 ≠ s.cur32 → place i = (false, 0xB) ∧ ¬(s.variant ≠ .v0 ∧ s.host.curSize = .size64)) ∧
      (t.cur64 ≠ s.cur64 → place i = (false, 0xB) ∧ s.variant ≠ .v0 ∧ s.host.curSize = .size64) ∧
      (t.curXcnt ≠ s.curXcnt → place i ∈ [(false, 0xC), (false, 0xD)]) ∧
      (t.curYcnt ≠ s.curYcnt → place i ∈ [(false, 0xE), (false, 0xF)]) ∧
      (t.hostCalls ≠ s.hostCalls → delegated i = true) ∧
      t.inputs = s.inputs ∧ t.hostId = s.hostId ∧ t.e6Table = s.e6Table

/-- Of the transactions the block handles itself, each host-shared field is changed only by those the spec names for it,
in the case it names, and the overscan-enable bit by none (R32 to R40, R230). -/
def Obligations.HostSharedFieldWriters : Prop :=
  ∀ (i : Instr) (s t : State), delegated i = false → exec i s = .next t →
    (t.host.addr ≠ s.host.addr → place i ∈ [(false, 0x3), (false, 0xB), (true, 0xB)] ∨ isCr3Write i s) ∧
      (t.host.pos ≠ s.host.pos → place i ∈ [(false, 0x3), (false, 0x4), (false, 0x7)] ∧ t.host.pos = 0) ∧
      (t.host.status ≠ s.host.status →
        place i ∈ [(false, 0x3), (false, 0x7)] ∧ t.host.status = 3 ∨
          place i ∈ [(false, 0x4), (false, 0x5)] ∧ t.host.status = 0) ∧
      (t.host.prec8 ≠ s.host.prec8 → place i = (false, 0x6)) ∧
      (t.host.bpp ≠ s.host.bpp → place i ∈ [(false, 0x8), (false, 0x9)]) ∧
      (t.host.curEnable ≠ s.host.curEnable → place i = (false, 0x9)) ∧
      (t.host.curSize ≠ s.host.curSize → isCr3Write i s) ∧
      (t.host.curYOff ≠ s.host.curYOff → isCr3Write i s) ∧
      (t.host.curX ≠ s.host.curX → isCr3Write i s ∨ place i ∈ [(false, 0xC), (false, 0xD)]) ∧
      (t.host.curY ≠ s.host.curY → isCr3Write i s ∨ place i ∈ [(false, 0xE), (false, 0xF)]) ∧
      (t.host.overscan ≠ s.host.overscan →
        isThirdByte i s ∧ s.extAddr.toNat % 4 = 0 ∧ s.host.ovEn = true) ∧
      t.host.ovEn = s.host.ovEn

/-- R46: the phase, the staged bytes and the red, green and packed parts of the palette cannot be read: two states that
differ in these alone return the same byte at every read. -/
def Obligations.HiddenStateCannotBeRead : Prop :=
  ∀ (i : Instr) (s : State) (p : Phase) (r g : Byte) (pal : Vector PalEntry 4), i.isRead = true →
    (∀ j : BitVec 2, (pal[j.toNat]'j.isLt).b = (palEntry s j).b) →
    ∃ t t', exec i s = .next t ∧ exec i { s with phase := p, stR := r, stG := g, extPal := pal } = .next t' ∧
      t.readData = t'.readData ∧ t'.host = t.host

/-- A tier is never changed by a step (R4). Construction from a raw number gives each tier at its own number and refuses
every number outside the four (R222); which number stands for which tier is the model's choice (log 26), so the statement
only says that there is such a numbering. -/
def Obligations.TierIsFixedAtInstantiation : Prop :=
  (∀ s t : State, step s = .next t → t.variant = s.variant) ∧
    ∃ number : Variant → Nat, Function.Injective number ∧
      ∀ h : HostSetup,
        (∀ v, instantiateRaw (number v) h = .next (State.instantiate v h)) ∧
          ∀ n, (∀ v, number v ≠ n) → instantiateRaw n h = .refused (.unrecognizedVariant n)

/-- R48 and R250: an instance of any tier, with any HOST_INIT, starts with every core-owned field 0, cursor size 32, the
other host-shared fields as the host has them, no event, and the tier's status byte where the position flag is 0; a
number that is no tier's is refused. -/
def Obligations.InstantiationState : Prop :=
  ∀ (v : Variant) (h : HostSetup) (n : Nat),
    let s := State.instantiate v h
    (isTier n = false → instantiateRaw n h = .refused (.unrecognizedVariant n)) ∧
    s.variant = v ∧ s.cr0 = 0 ∧ s.cr1 = 0 ∧ s.cr2 = 0 ∧ s.cr3 = 0 ∧ s.cr4 = 0 ∧ s.extAddr = 0 ∧ s.phase.number = 0 ∧
      s.stR = 0 ∧ s.stG = 0 ∧ (∀ i, palEntry s i = { r := 0, g := 0, b := 0, packed := 0 }) ∧
      (∀ a, readByte s.cur32 a = 0 ∧ readByte s.cur64 a = 0) ∧ s.curXcnt = 0 ∧ s.curYcnt = 0 ∧
      s.host = { h.hostInit with curSize := .size32 } ∧ s.events = [] ∧
      (∃ t, exec .rdIdx s = .next t ∧ (h.hostInit.pos = 0 → t.readData = some (match v with
        | .v0 => 0x40
        | .v1 => 0x60
        | .v2 => 0xD0
        | .v3 => 0x20)))

/-- The invariant holds of every instance whose HOST_INIT keeps the host's duty on the counter's width, and of
State.reset (whose tier and HOST_INIT are the model's, log 3 and log 4). -/
def Obligations.InvariantHoldsAtReset : Prop :=
  (∀ (v : Variant) (h : HostSetup), hostDuty v h.hostInit = true → (State.instantiate v h).Inv) ∧ State.reset.Inv

/-- The headline: every step keeps the machine's invariant, whatever the host does. The counter stays within the tier's
width, the cursor buffers stay canonical and within their sizes, what a tier lacks stays at its reset value, and no
transaction makes more than one request (R47, R24, R25, R30, R32, R224; the width after a host call rests on log 6). -/
def Obligations.StepKeepsTheInvariant : Prop :=
  ∀ s t : State, s.Inv → step s = .next t → t.Inv

/-- The block never stops: with a host that keeps its duty, any number of steps ends in a next state, in which exactly
that many of the host's inputs have been taken, in order, and the tier is the same (R220, R72, R235). -/
def Obligations.RunsNeverStop : Prop :=
  ∀ (k : Nat) (s : State), s.HostKeepsDuty →
    ∃ t : State, Host.Core.run Sys2Proof.core k s = .next t ∧ t.inputs = s.inputs.drop k ∧ t.variant = s.variant

/-- R233: a step of one instance leaves every other instance as it was, and takes that one where its own step takes it. -/
def Obligations.InstancesShareNothing : Prop :=
  ∀ (k : Nat) (sys : List State) (s t : State), sys[k]? = some s → step s = .next t →
    ∃ sys', stepInstance k sys = .next sys' ∧ sys'.length = sys.length ∧ sys'[k]? = some t ∧
      ∀ j, j ≠ k → sys'[j]? = sys[j]?
end

