-- ==== Sys2Proof/Laws/Decode.lean ====
section
/-! SUPPORT. The decoder and the encoder, once each: what a code's two transactions are, and the fields of an encoded
word. -/

namespace Sys2Proof

open Sys2Proof.Machine

theorem code_writeAt (rs : RegSel) (d : Byte) : (writeAt rs d).code = rs := by
  revert rs; simp only [writeAt]; intro rs
  have h : rs = (BitVec.ofBool (rs.getLsbD 3) ++ BitVec.ofBool (rs.getLsbD 2) ++ BitVec.ofBool (rs.getLsbD 1)
      ++ BitVec.ofBool (rs.getLsbD 0) : BitVec 4) := by revert rs; decide
  generalize rs.getLsbD 3 = x, rs.getLsbD 2 = y, rs.getLsbD 1 = z, rs.getLsbD 0 = w at h ⊢
  subst h
  cases x <;> cases y <;> cases z <;> cases w <;> rfl

theorem access_writeAt (rs : RegSel) (d : Byte) : (writeAt rs d).access = .write d := by
  unfold writeAt; split <;> rfl

theorem code_readAt (rs : RegSel) : (readAt rs).code = rs := by revert rs; decide

theorem access_readAt (rs : RegSel) : (readAt rs).access = .read := by revert rs; decide

/-- The code and the direction of the transaction at a code are those it was looked up with (R84, R100). -/
@[simp] theorem code_instrAt (rs : RegSel) (a : Access) : (instrAt rs a).code = rs := by
  cases a with
  | write d => exact code_writeAt rs d
  | read => exact code_readAt rs

@[simp] theorem access_instrAt (rs : RegSel) (a : Access) : (instrAt rs a).access = a := by
  cases a with
  | write d => exact access_writeAt rs d
  | read => exact access_readAt rs

/-- A transaction is the one at its code in its direction (R100). -/
@[simp] theorem instrAt_code_access (i : Instr) : instrAt i.code i.access = i := by
  cases i <;> simp [instrAt, Instr.code, Instr.access, writeAt, readAt]

/-- A write's word field by field (R82). -/
theorem writeWord_fields (rs : RegSel) (d : Byte) :
    (0x1000#13 ||| (rs.setWidth 13 <<< 8) ||| d.setWidth 13).getLsbD 12 = true ∧
      (0x1000#13 ||| (rs.setWidth 13 <<< 8) ||| d.setWidth 13).extractLsb' 8 4 = rs ∧
      (0x1000#13 ||| (rs.setWidth 13 <<< 8) ||| d.setWidth 13).extractLsb' 0 8 = d := by
  refine ⟨?_, ?_, ?_⟩
  · simp
  · ext k hk
    have h0 : (0x1000#13)[8 + k]'(by omega) = false := by interval_cases k <;> simp
    simp [h0, show 8 + k < 13 by omega, BitVec.getLsbD_eq_getElem hk]
  · ext k hk
    have h0 : (0x1000#13)[k]'(by omega) = false := by interval_cases k <;> simp
    simp [h0, hk, show k < 13 by omega]

/-- A read's word field by field, whatever stands in its ignored data bits (R82, D9). -/
theorem readWord_fields (rs : RegSel) (x : Byte) :
    ((rs.setWidth 13 <<< 8) ||| x.setWidth 13).getLsbD 12 = false ∧
      ((rs.setWidth 13 <<< 8) ||| x.setWidth 13).extractLsb' 8 4 = rs := by
  refine ⟨?_, ?_⟩
  · simp
  · ext k hk
    simp [show 8 + k < 13 by omega, BitVec.getLsbD_eq_getElem hk]

/-- The word of a write decodes to the write at its code (R82). -/
theorem decodeWord_write (rs : RegSel) (d : Byte) :
    decodeWord (0x1000#13 ||| (rs.setWidth 13 <<< 8) ||| d.setWidth 13) = writeAt rs d := by
  obtain ⟨h1, h2, h3⟩ := writeWord_fields rs d
  rw [decodeWord, wordAccess, h1, h2, h3]; rfl

/-- The word of a read decodes to the read at its code, whatever its data bits (R82, D9). -/
theorem decodeWord_read (rs : RegSel) (x : Byte) :
    decodeWord ((rs.setWidth 13 <<< 8) ||| x.setWidth 13) = readAt rs := by
  obtain ⟨h1, h2⟩ := readWord_fields rs x
  rw [decodeWord, wordAccess, h1, h2]; rfl

/-- The pins of a word form the word's code (R81, R82). -/
theorem registerSelect_txnOfWord (t : TxnWord) :
    registerSelect (txnOfWord t).sel2 (txnOfWord t).sel3 (txnOfWord t).offset = t.extractLsb' 8 4 := by
  have hl : ∀ r : RegSel, r = (BitVec.ofBool (r.getLsbD 3)).setWidth 4 <<< 3 |||
      (BitVec.ofBool (r.getLsbD 2)).setWidth 4 <<< 2 ||| (BitVec.ofNat 4 (r.extractLsb' 0 2).toNat &&& 0x3) := by decide
  rw [hl (t.extractLsb' 8 4)]
  have h2 : (t.extractLsb' 8 4).extractLsb' 0 2 = t.extractLsb' 8 2 := by ext k hk; simp [show k < 4 by omega]
  rw [h2]
  simp [txnOfWord, registerSelect]

/-- Presenting a word's transaction and decoding its pins gives the word's instruction (R81, R82). -/
theorem decodeTxn_txnOfWord (t : TxnWord) : decodeTxn (txnOfWord t) = decodeWord t := by
  rw [decodeTxn, registerSelect_txnOfWord]; rfl

/-- The code of the pins as a number (R81). -/
theorem registerSelect_toNat (sel2 sel3 : Bool) (offset : Nat) :
    (registerSelect sel2 sel3 offset).toNat = 8 * sel2.toNat + 4 * sel3.toNat + offset % 4 := by
  have h : BitVec.ofNat 4 offset &&& 0x3#4 = BitVec.ofNat 4 (offset % 4) := by
    apply BitVec.eq_of_toNat_eq
    rw [BitVec.toNat_and, BitVec.toNat_ofNat, BitVec.toNat_ofNat, BitVec.toNat_ofNat]
    change offset % 16 &&& (2 ^ 2 - 1) = offset % 4 % 16
    rw [Nat.and_two_pow_sub_one_eq_mod]
    omega
  unfold registerSelect
  rw [h]
  have : offset % 4 < 4 := Nat.mod_lt _ (by norm_num)
  generalize offset % 4 = o at this ⊢
  interval_cases o <;> cases sel2 <;> cases sel3 <;> rfl

theorem encode_writeAt (rs : RegSel) (d : Byte) :
    encode (writeAt rs d) = 0x1000#13 ||| (rs.setWidth 13 <<< 8) ||| d.setWidth 13 := by
  rw [encode, access_writeAt, code_writeAt]

theorem encode_readAt (rs : RegSel) : encode (readAt rs) = rs.setWidth 13 <<< 8 := by
  rw [encode, access_readAt, code_readAt]

/-- A 13-bit word given as a table row's two bytes is that word. -/
theorem tableWord_toNat (t : TxnWord) : tableWord 16 t.toNat = some t := by
  have ht := t.isLt
  have h16 : t.toNat % 2 ^ 16 = t.toNat := Nat.mod_eq_of_lt (by omega)
  have hhi : (BitVec.ofNat 8 (t.toNat / 256)).extractLsb' 5 3 = 0#3 := by
    apply BitVec.eq_of_toNat_eq
    simp [Nat.shiftRight_eq_div_pow]; omega
  simp only [tableWord, tableBytes, wordOfBytes, h16]
  simp only [le_refl, if_true, BitVec.ofNat_eq_ofNat, hhi]
  congr 1
  apply BitVec.eq_of_toNat_eq
  rw [BitVec.toNat_append, ← Nat.shiftLeft_add_eq_or_of_lt (BitVec.isLt _)]
  simp [Nat.shiftLeft_eq]; omega

end Sys2Proof
end

