-- ==== Sys2Proof/Laws/Memory.lean ====
section
/-! SUPPORT. The laws of a cursor buffer: a read after a write, and the canonical form kept. -/

namespace Sys2Proof.Machine

theorem risingFrom_mono {lo lo' : Nat} (hle : lo' ≤ lo) : ∀ {m : Memory}, risingFrom lo m → risingFrom lo' m
  | [], _ => rfl
  | (a, _) :: m, h => by
    simp only [risingFrom, Bool.and_eq_true, decide_eq_true_eq] at h ⊢
    exact ⟨hle.trans h.1, h.2⟩

/-- A byte below every listed index is not listed. -/
theorem readByte_of_lt {lo a : Nat} (ha : a < lo) : ∀ {m : Memory}, risingFrom lo m → readByte m a = unlistedByte
  | [], _ => rfl
  | (b, v) :: m, h => by
    simp only [risingFrom, Bool.and_eq_true, decide_eq_true_eq] at h
    have hb : b ≠ a := by omega
    simpa [readByte, hb] using readByte_of_lt (by omega) h.2

theorem readByte_listed_append (a : Nat) (v : Byte) (m : Memory) (hm : readByte m a = unlistedByte) (x : Nat) :
    readByte (listed a v ++ m) x = if a = x then v else readByte m x := by
  unfold listed
  split
  · rename_i hv
    split
    · rename_i hx; subst hx; simp [hm, hv]
    · simp
  · simp [readByte]

/-- A read after a write gives the byte written at its index, and what was there before everywhere else. -/
theorem readByte_writeByte {lo : Nat} (a : Nat) (v : Byte) (x : Nat) :
    ∀ {m : Memory}, risingFrom lo m → readByte (writeByte m a v) x = if a = x then v else readByte m x
  | [], _ => by simpa [writeByte] using readByte_listed_append a v [] rfl x
  | (b, w) :: m, h => by
    have h' := h
    simp only [risingFrom, Bool.and_eq_true, decide_eq_true_eq] at h
    unfold writeByte
    split
    · rename_i hab
      have hr : risingFrom b ((b, w) :: m) := by simp [risingFrom, h.2]
      exact readByte_listed_append a v _ (readByte_of_lt hab hr) x
    · split
      · rename_i _ hab
        subst hab
        rw [readByte_listed_append a v m (readByte_of_lt (Nat.lt_succ_self a) h.2) x]
        by_cases hx : a = x <;> simp [readByte, hx]
      · rename_i _ hab
        simp only [readByte]
        by_cases hb : b = x
        · have : a ≠ x := by omega
          simp [hb, this]
        · simp [hb, readByte_writeByte a v x h.2]

theorem risingFrom_writeByte (a : Nat) (v : Byte) :
    ∀ {lo : Nat} {m : Memory}, lo ≤ a → risingFrom lo m → risingFrom lo (writeByte m a v)
  | lo, [], hlo, _ => by unfold writeByte listed; split <;> simp [risingFrom, hlo]
  | lo, (b, w) :: m, hlo, h => by
    have h' := h
    simp only [risingFrom, Bool.and_eq_true, decide_eq_true_eq] at h
    unfold writeByte
    split
    · rename_i hab
      unfold listed
      split
      · exact h'
      · simp only [List.singleton_append, risingFrom, Bool.and_eq_true, decide_eq_true_eq]
        exact ⟨hlo, by omega, h.2⟩
    · split
      · rename_i _ hab
        subst hab
        unfold listed
        split
        · exact risingFrom_mono (by omega) h.2
        · simp only [List.singleton_append, risingFrom, Bool.and_eq_true, decide_eq_true_eq]
          exact ⟨hlo, h.2⟩
      · simp only [risingFrom, Bool.and_eq_true, decide_eq_true_eq]
        exact ⟨h.1, risingFrom_writeByte a v (by omega) h.2⟩

theorem all_listed {p : Host.Cell → Bool} (a : Nat) (v : Byte) (hp : v ≠ unlistedByte → p (a, v)) :
    (listed a v).all p := by
  unfold listed
  split <;> simp_all

/-- A predicate that holds of every entry and of the entry written holds of every entry after the write. -/
theorem all_writeByte {p : Host.Cell → Bool} (a : Nat) (v : Byte) (hp : v ≠ unlistedByte → p (a, v)) :
    ∀ {m : Memory}, m.all p → (writeByte m a v).all p
  | [], _ => all_listed a v hp
  | (b, w) :: m, h => by
    have ⟨hb, hm⟩ : p (b, w) ∧ m.all p := by simpa only [List.all_cons, Bool.and_eq_true] using h
    have hl := all_listed a v hp
    unfold writeByte
    split
    · rw [List.all_append, hl, h]; rfl
    · split
      · rw [List.all_append, hl, hm]; rfl
      · rw [List.all_cons, hb, all_writeByte a v hp hm]; rfl

/-- A write keeps the canonical form. -/
theorem wf_writeByte {m : Memory} (a : Nat) (v : Byte) (h : m.wf) : (writeByte m a v).wf := by
  simp only [Memory.wf, Bool.and_eq_true] at h ⊢
  exact ⟨risingFrom_writeByte a v (Nat.zero_le a) h.1, all_writeByte a v (by simp) h.2⟩

/-- A write inside a buffer's size keeps every index inside it. -/
theorem within_writeByte {n : Nat} {m : Memory} (a : Nat) (v : Byte) (ha : a < n) (h : m.within n) :
    (writeByte m a v).within n := all_writeByte a v (by simp [ha]) h

/-- A read after a write, for a buffer in canonical form. -/
theorem readByte_writeByte_wf {m : Memory} (h : m.wf) (a : Nat) (v : Byte) (x : Nat) :
    readByte (writeByte m a v) x = if a = x then v else readByte m x := by
  simp only [Memory.wf, Bool.and_eq_true] at h
  exact readByte_writeByte a v x h.1

end Sys2Proof.Machine
end

