-- ==== Sys2Proof/Laws/State.lean ====
section
/-! SUPPORT. One lemma per field per update, each true by unfolding the update once: simp uses them, so that no proof
unfolds an update again. -/

namespace Sys2Proof.Machine

/-! `beginTransaction` -/

@[simp] theorem beginTransaction_variant (s : State) : (beginTransaction s).variant = s.variant := rfl
@[simp] theorem beginTransaction_cr0 (s : State) : (beginTransaction s).cr0 = s.cr0 := rfl
@[simp] theorem beginTransaction_cr1 (s : State) : (beginTransaction s).cr1 = s.cr1 := rfl
@[simp] theorem beginTransaction_cr2 (s : State) : (beginTransaction s).cr2 = s.cr2 := rfl
@[simp] theorem beginTransaction_cr3 (s : State) : (beginTransaction s).cr3 = s.cr3 := rfl
@[simp] theorem beginTransaction_cr4 (s : State) : (beginTransaction s).cr4 = s.cr4 := rfl
@[simp] theorem beginTransaction_extAddr (s : State) : (beginTransaction s).extAddr = s.extAddr := rfl
@[simp] theorem beginTransaction_phase (s : State) : (beginTransaction s).phase = s.phase := rfl
@[simp] theorem beginTransaction_stR (s : State) : (beginTransaction s).stR = s.stR := rfl
@[simp] theorem beginTransaction_stG (s : State) : (beginTransaction s).stG = s.stG := rfl
@[simp] theorem beginTransaction_extPal (s : State) : (beginTransaction s).extPal = s.extPal := rfl
@[simp] theorem beginTransaction_cur32 (s : State) : (beginTransaction s).cur32 = s.cur32 := rfl
@[simp] theorem beginTransaction_cur64 (s : State) : (beginTransaction s).cur64 = s.cur64 := rfl
@[simp] theorem beginTransaction_curXcnt (s : State) : (beginTransaction s).curXcnt = s.curXcnt := rfl
@[simp] theorem beginTransaction_curYcnt (s : State) : (beginTransaction s).curYcnt = s.curYcnt := rfl
@[simp] theorem beginTransaction_host (s : State) : (beginTransaction s).host = s.host := rfl
@[simp] theorem beginTransaction_events (s : State) : (beginTransaction s).events = [] := rfl
@[simp] theorem beginTransaction_readData (s : State) : (beginTransaction s).readData = none := rfl
@[simp] theorem beginTransaction_inputs (s : State) : (beginTransaction s).inputs = s.inputs := rfl
@[simp] theorem beginTransaction_hostCalls (s : State) : (beginTransaction s).hostCalls = s.hostCalls := rfl
@[simp] theorem beginTransaction_hostId (s : State) : (beginTransaction s).hostId = s.hostId := rfl
@[simp] theorem beginTransaction_e6Table (s : State) : (beginTransaction s).e6Table = s.e6Table := rfl

/-! `requestRecalc` -/

@[simp] theorem requestRecalc_variant (s : State) : (requestRecalc s).variant = s.variant := rfl
@[simp] theorem requestRecalc_cr0 (s : State) : (requestRecalc s).cr0 = s.cr0 := rfl
@[simp] theorem requestRecalc_cr1 (s : State) : (requestRecalc s).cr1 = s.cr1 := rfl
@[simp] theorem requestRecalc_cr2 (s : State) : (requestRecalc s).cr2 = s.cr2 := rfl
@[simp] theorem requestRecalc_cr3 (s : State) : (requestRecalc s).cr3 = s.cr3 := rfl
@[simp] theorem requestRecalc_cr4 (s : State) : (requestRecalc s).cr4 = s.cr4 := rfl
@[simp] theorem requestRecalc_extAddr (s : State) : (requestRecalc s).extAddr = s.extAddr := rfl
@[simp] theorem requestRecalc_phase (s : State) : (requestRecalc s).phase = s.phase := rfl
@[simp] theorem requestRecalc_stR (s : State) : (requestRecalc s).stR = s.stR := rfl
@[simp] theorem requestRecalc_stG (s : State) : (requestRecalc s).stG = s.stG := rfl
@[simp] theorem requestRecalc_extPal (s : State) : (requestRecalc s).extPal = s.extPal := rfl
@[simp] theorem requestRecalc_cur32 (s : State) : (requestRecalc s).cur32 = s.cur32 := rfl
@[simp] theorem requestRecalc_cur64 (s : State) : (requestRecalc s).cur64 = s.cur64 := rfl
@[simp] theorem requestRecalc_curXcnt (s : State) : (requestRecalc s).curXcnt = s.curXcnt := rfl
@[simp] theorem requestRecalc_curYcnt (s : State) : (requestRecalc s).curYcnt = s.curYcnt := rfl
@[simp] theorem requestRecalc_host (s : State) : (requestRecalc s).host = s.host := rfl
@[simp] theorem requestRecalc_events (s : State) : (requestRecalc s).events = s.events ++ [Event.recalc] := rfl
@[simp] theorem requestRecalc_readData (s : State) : (requestRecalc s).readData = s.readData := rfl
@[simp] theorem requestRecalc_inputs (s : State) : (requestRecalc s).inputs = s.inputs := rfl
@[simp] theorem requestRecalc_hostCalls (s : State) : (requestRecalc s).hostCalls = s.hostCalls := rfl
@[simp] theorem requestRecalc_hostId (s : State) : (requestRecalc s).hostId = s.hostId := rfl
@[simp] theorem requestRecalc_e6Table (s : State) : (requestRecalc s).e6Table = s.e6Table := rfl

/-! `withHost` -/

@[simp] theorem withHost_variant (s : State) (h : HostShared) : (withHost s h).variant = s.variant := rfl
@[simp] theorem withHost_cr0 (s : State) (h : HostShared) : (withHost s h).cr0 = s.cr0 := rfl
@[simp] theorem withHost_cr1 (s : State) (h : HostShared) : (withHost s h).cr1 = s.cr1 := rfl
@[simp] theorem withHost_cr2 (s : State) (h : HostShared) : (withHost s h).cr2 = s.cr2 := rfl
@[simp] theorem withHost_cr3 (s : State) (h : HostShared) : (withHost s h).cr3 = s.cr3 := rfl
@[simp] theorem withHost_cr4 (s : State) (h : HostShared) : (withHost s h).cr4 = s.cr4 := rfl
@[simp] theorem withHost_extAddr (s : State) (h : HostShared) : (withHost s h).extAddr = s.extAddr := rfl
@[simp] theorem withHost_phase (s : State) (h : HostShared) : (withHost s h).phase = s.phase := rfl
@[simp] theorem withHost_stR (s : State) (h : HostShared) : (withHost s h).stR = s.stR := rfl
@[simp] theorem withHost_stG (s : State) (h : HostShared) : (withHost s h).stG = s.stG := rfl
@[simp] theorem withHost_extPal (s : State) (h : HostShared) : (withHost s h).extPal = s.extPal := rfl
@[simp] theorem withHost_cur32 (s : State) (h : HostShared) : (withHost s h).cur32 = s.cur32 := rfl
@[simp] theorem withHost_cur64 (s : State) (h : HostShared) : (withHost s h).cur64 = s.cur64 := rfl
@[simp] theorem withHost_curXcnt (s : State) (h : HostShared) : (withHost s h).curXcnt = s.curXcnt := rfl
@[simp] theorem withHost_curYcnt (s : State) (h : HostShared) : (withHost s h).curYcnt = s.curYcnt := rfl
@[simp] theorem withHost_host (s : State) (h : HostShared) : (withHost s h).host = h := rfl
@[simp] theorem withHost_events (s : State) (h : HostShared) : (withHost s h).events = s.events := rfl
@[simp] theorem withHost_readData (s : State) (h : HostShared) : (withHost s h).readData = s.readData := rfl
@[simp] theorem withHost_inputs (s : State) (h : HostShared) : (withHost s h).inputs = s.inputs := rfl
@[simp] theorem withHost_hostCalls (s : State) (h : HostShared) : (withHost s h).hostCalls = s.hostCalls := rfl
@[simp] theorem withHost_hostId (s : State) (h : HostShared) : (withHost s h).hostId = s.hostId := rfl
@[simp] theorem withHost_e6Table (s : State) (h : HostShared) : (withHost s h).e6Table = s.e6Table := rfl

/-! `setPalEntry` -/

@[simp] theorem setPalEntry_variant (s : State) (i : BitVec 2) (e : PalEntry) : (setPalEntry s i e).variant = s.variant := rfl
@[simp] theorem setPalEntry_cr0 (s : State) (i : BitVec 2) (e : PalEntry) : (setPalEntry s i e).cr0 = s.cr0 := rfl
@[simp] theorem setPalEntry_cr1 (s : State) (i : BitVec 2) (e : PalEntry) : (setPalEntry s i e).cr1 = s.cr1 := rfl
@[simp] theorem setPalEntry_cr2 (s : State) (i : BitVec 2) (e : PalEntry) : (setPalEntry s i e).cr2 = s.cr2 := rfl
@[simp] theorem setPalEntry_cr3 (s : State) (i : BitVec 2) (e : PalEntry) : (setPalEntry s i e).cr3 = s.cr3 := rfl
@[simp] theorem setPalEntry_cr4 (s : State) (i : BitVec 2) (e : PalEntry) : (setPalEntry s i e).cr4 = s.cr4 := rfl
@[simp] theorem setPalEntry_extAddr (s : State) (i : BitVec 2) (e : PalEntry) : (setPalEntry s i e).extAddr = s.extAddr := rfl
@[simp] theorem setPalEntry_phase (s : State) (i : BitVec 2) (e : PalEntry) : (setPalEntry s i e).phase = s.phase := rfl
@[simp] theorem setPalEntry_stR (s : State) (i : BitVec 2) (e : PalEntry) : (setPalEntry s i e).stR = s.stR := rfl
@[simp] theorem setPalEntry_stG (s : State) (i : BitVec 2) (e : PalEntry) : (setPalEntry s i e).stG = s.stG := rfl
@[simp] theorem setPalEntry_extPal (s : State) (i : BitVec 2) (e : PalEntry) : (setPalEntry s i e).extPal = s.extPal.set i.toNat e i.isLt := rfl
@[simp] theorem setPalEntry_cur32 (s : State) (i : BitVec 2) (e : PalEntry) : (setPalEntry s i e).cur32 = s.cur32 := rfl
@[simp] theorem setPalEntry_cur64 (s : State) (i : BitVec 2) (e : PalEntry) : (setPalEntry s i e).cur64 = s.cur64 := rfl
@[simp] theorem setPalEntry_curXcnt (s : State) (i : BitVec 2) (e : PalEntry) : (setPalEntry s i e).curXcnt = s.curXcnt := rfl
@[simp] theorem setPalEntry_curYcnt (s : State) (i : BitVec 2) (e : PalEntry) : (setPalEntry s i e).curYcnt = s.curYcnt := rfl
@[simp] theorem setPalEntry_host (s : State) (i : BitVec 2) (e : PalEntry) : (setPalEntry s i e).host = s.host := rfl
@[simp] theorem setPalEntry_events (s : State) (i : BitVec 2) (e : PalEntry) : (setPalEntry s i e).events = s.events := rfl
@[simp] theorem setPalEntry_readData (s : State) (i : BitVec 2) (e : PalEntry) : (setPalEntry s i e).readData = s.readData := rfl
@[simp] theorem setPalEntry_inputs (s : State) (i : BitVec 2) (e : PalEntry) : (setPalEntry s i e).inputs = s.inputs := rfl
@[simp] theorem setPalEntry_hostCalls (s : State) (i : BitVec 2) (e : PalEntry) : (setPalEntry s i e).hostCalls = s.hostCalls := rfl
@[simp] theorem setPalEntry_hostId (s : State) (i : BitVec 2) (e : PalEntry) : (setPalEntry s i e).hostId = s.hostId := rfl
@[simp] theorem setPalEntry_e6Table (s : State) (i : BitVec 2) (e : PalEntry) : (setPalEntry s i e).e6Table = s.e6Table := rfl

/-! `incAddr` -/

@[simp] theorem incAddr_variant (s : State) : (incAddr s).variant = s.variant := rfl
@[simp] theorem incAddr_cr0 (s : State) : (incAddr s).cr0 = s.cr0 := rfl
@[simp] theorem incAddr_cr1 (s : State) : (incAddr s).cr1 = s.cr1 := rfl
@[simp] theorem incAddr_cr2 (s : State) : (incAddr s).cr2 = s.cr2 := rfl
@[simp] theorem incAddr_cr3 (s : State) : (incAddr s).cr3 = s.cr3 := rfl
@[simp] theorem incAddr_cr4 (s : State) : (incAddr s).cr4 = s.cr4 := rfl
@[simp] theorem incAddr_extAddr (s : State) : (incAddr s).extAddr = s.extAddr := rfl
@[simp] theorem incAddr_phase (s : State) : (incAddr s).phase = s.phase := rfl
@[simp] theorem incAddr_stR (s : State) : (incAddr s).stR = s.stR := rfl
@[simp] theorem incAddr_stG (s : State) : (incAddr s).stG = s.stG := rfl
@[simp] theorem incAddr_extPal (s : State) : (incAddr s).extPal = s.extPal := rfl
@[simp] theorem incAddr_cur32 (s : State) : (incAddr s).cur32 = s.cur32 := rfl
@[simp] theorem incAddr_cur64 (s : State) : (incAddr s).cur64 = s.cur64 := rfl
@[simp] theorem incAddr_curXcnt (s : State) : (incAddr s).curXcnt = s.curXcnt := rfl
@[simp] theorem incAddr_curYcnt (s : State) : (incAddr s).curYcnt = s.curYcnt := rfl
@[simp] theorem incAddr_host (s : State) : (incAddr s).host = { s.host with addr := nextAddr s.variant s.host.addr } := rfl
@[simp] theorem incAddr_events (s : State) : (incAddr s).events = s.events := rfl
@[simp] theorem incAddr_readData (s : State) : (incAddr s).readData = s.readData := rfl
@[simp] theorem incAddr_inputs (s : State) : (incAddr s).inputs = s.inputs := rfl
@[simp] theorem incAddr_hostCalls (s : State) : (incAddr s).hostCalls = s.hostCalls := rfl
@[simp] theorem incAddr_hostId (s : State) : (incAddr s).hostId = s.hostId := rfl
@[simp] theorem incAddr_e6Table (s : State) : (incAddr s).e6Table = s.e6Table := rfl

/-! `recalcX` -/

@[simp] theorem recalcX_variant (s : State) : (recalcX s).variant = s.variant := rfl
@[simp] theorem recalcX_cr0 (s : State) : (recalcX s).cr0 = s.cr0 := rfl
@[simp] theorem recalcX_cr1 (s : State) : (recalcX s).cr1 = s.cr1 := rfl
@[simp] theorem recalcX_cr2 (s : State) : (recalcX s).cr2 = s.cr2 := rfl
@[simp] theorem recalcX_cr3 (s : State) : (recalcX s).cr3 = s.cr3 := rfl
@[simp] theorem recalcX_cr4 (s : State) : (recalcX s).cr4 = s.cr4 := rfl
@[simp] theorem recalcX_extAddr (s : State) : (recalcX s).extAddr = s.extAddr := rfl
@[simp] theorem recalcX_phase (s : State) : (recalcX s).phase = s.phase := rfl
@[simp] theorem recalcX_stR (s : State) : (recalcX s).stR = s.stR := rfl
@[simp] theorem recalcX_stG (s : State) : (recalcX s).stG = s.stG := rfl
@[simp] theorem recalcX_extPal (s : State) : (recalcX s).extPal = s.extPal := rfl
@[simp] theorem recalcX_cur32 (s : State) : (recalcX s).cur32 = s.cur32 := rfl
@[simp] theorem recalcX_cur64 (s : State) : (recalcX s).cur64 = s.cur64 := rfl
@[simp] theorem recalcX_curXcnt (s : State) : (recalcX s).curXcnt = s.curXcnt := rfl
@[simp] theorem recalcX_curYcnt (s : State) : (recalcX s).curYcnt = s.curYcnt := rfl
@[simp] theorem recalcX_host (s : State) : (recalcX s).host = { s.host with curX := displayed s.curXcnt s.host.curSize } := rfl
@[simp] theorem recalcX_events (s : State) : (recalcX s).events = s.events := rfl
@[simp] theorem recalcX_readData (s : State) : (recalcX s).readData = s.readData := rfl
@[simp] theorem recalcX_inputs (s : State) : (recalcX s).inputs = s.inputs := rfl
@[simp] theorem recalcX_hostCalls (s : State) : (recalcX s).hostCalls = s.hostCalls := rfl
@[simp] theorem recalcX_hostId (s : State) : (recalcX s).hostId = s.hostId := rfl
@[simp] theorem recalcX_e6Table (s : State) : (recalcX s).e6Table = s.e6Table := rfl

/-! `recalcY` -/

@[simp] theorem recalcY_variant (s : State) : (recalcY s).variant = s.variant := rfl
@[simp] theorem recalcY_cr0 (s : State) : (recalcY s).cr0 = s.cr0 := rfl
@[simp] theorem recalcY_cr1 (s : State) : (recalcY s).cr1 = s.cr1 := rfl
@[simp] theorem recalcY_cr2 (s : State) : (recalcY s).cr2 = s.cr2 := rfl
@[simp] theorem recalcY_cr3 (s : State) : (recalcY s).cr3 = s.cr3 := rfl
@[simp] theorem recalcY_cr4 (s : State) : (recalcY s).cr4 = s.cr4 := rfl
@[simp] theorem recalcY_extAddr (s : State) : (recalcY s).extAddr = s.extAddr := rfl
@[simp] theorem recalcY_phase (s : State) : (recalcY s).phase = s.phase := rfl
@[simp] theorem recalcY_stR (s : State) : (recalcY s).stR = s.stR := rfl
@[simp] theorem recalcY_stG (s : State) : (recalcY s).stG = s.stG := rfl
@[simp] theorem recalcY_extPal (s : State) : (recalcY s).extPal = s.extPal := rfl
@[simp] theorem recalcY_cur32 (s : State) : (recalcY s).cur32 = s.cur32 := rfl
@[simp] theorem recalcY_cur64 (s : State) : (recalcY s).cur64 = s.cur64 := rfl
@[simp] theorem recalcY_curXcnt (s : State) : (recalcY s).curXcnt = s.curXcnt := rfl
@[simp] theorem recalcY_curYcnt (s : State) : (recalcY s).curYcnt = s.curYcnt := rfl
@[simp] theorem recalcY_host (s : State) : (recalcY s).host = { s.host with curY := displayed s.curYcnt s.host.curSize } := rfl
@[simp] theorem recalcY_events (s : State) : (recalcY s).events = s.events := rfl
@[simp] theorem recalcY_readData (s : State) : (recalcY s).readData = s.readData := rfl
@[simp] theorem recalcY_inputs (s : State) : (recalcY s).inputs = s.inputs := rfl
@[simp] theorem recalcY_hostCalls (s : State) : (recalcY s).hostCalls = s.hostCalls := rfl
@[simp] theorem recalcY_hostId (s : State) : (recalcY s).hostId = s.hostId := rfl
@[simp] theorem recalcY_e6Table (s : State) : (recalcY s).e6Table = s.e6Table := rfl

/-! `hostPalWrite` -/

@[simp] theorem hostPalWrite_variant (o : BitVec 2) (d : Byte) (s : State) : (hostPalWrite o d s).variant = s.variant := rfl
@[simp] theorem hostPalWrite_cr0 (o : BitVec 2) (d : Byte) (s : State) : (hostPalWrite o d s).cr0 = s.cr0 := rfl
@[simp] theorem hostPalWrite_cr1 (o : BitVec 2) (d : Byte) (s : State) : (hostPalWrite o d s).cr1 = s.cr1 := rfl
@[simp] theorem hostPalWrite_cr2 (o : BitVec 2) (d : Byte) (s : State) : (hostPalWrite o d s).cr2 = s.cr2 := rfl
@[simp] theorem hostPalWrite_cr3 (o : BitVec 2) (d : Byte) (s : State) : (hostPalWrite o d s).cr3 = s.cr3 := rfl
@[simp] theorem hostPalWrite_cr4 (o : BitVec 2) (d : Byte) (s : State) : (hostPalWrite o d s).cr4 = s.cr4 := rfl
@[simp] theorem hostPalWrite_extAddr (o : BitVec 2) (d : Byte) (s : State) : (hostPalWrite o d s).extAddr = s.extAddr := rfl
@[simp] theorem hostPalWrite_phase (o : BitVec 2) (d : Byte) (s : State) : (hostPalWrite o d s).phase = s.phase := rfl
@[simp] theorem hostPalWrite_stR (o : BitVec 2) (d : Byte) (s : State) : (hostPalWrite o d s).stR = s.stR := rfl
@[simp] theorem hostPalWrite_stG (o : BitVec 2) (d : Byte) (s : State) : (hostPalWrite o d s).stG = s.stG := rfl
@[simp] theorem hostPalWrite_extPal (o : BitVec 2) (d : Byte) (s : State) : (hostPalWrite o d s).extPal = s.extPal := rfl
@[simp] theorem hostPalWrite_cur32 (o : BitVec 2) (d : Byte) (s : State) : (hostPalWrite o d s).cur32 = s.cur32 := rfl
@[simp] theorem hostPalWrite_cur64 (o : BitVec 2) (d : Byte) (s : State) : (hostPalWrite o d s).cur64 = s.cur64 := rfl
@[simp] theorem hostPalWrite_curXcnt (o : BitVec 2) (d : Byte) (s : State) : (hostPalWrite o d s).curXcnt = s.curXcnt := rfl
@[simp] theorem hostPalWrite_curYcnt (o : BitVec 2) (d : Byte) (s : State) : (hostPalWrite o d s).curYcnt = s.curYcnt := rfl
@[simp] theorem hostPalWrite_host (o : BitVec 2) (d : Byte) (s : State) : (hostPalWrite o d s).host = keepWidth s.variant (Config.hostPalWrite s.hostId s.hostCalls o d s.host) := rfl
@[simp] theorem hostPalWrite_events (o : BitVec 2) (d : Byte) (s : State) : (hostPalWrite o d s).events = s.events := rfl
@[simp] theorem hostPalWrite_readData (o : BitVec 2) (d : Byte) (s : State) : (hostPalWrite o d s).readData = s.readData := rfl
@[simp] theorem hostPalWrite_inputs (o : BitVec 2) (d : Byte) (s : State) : (hostPalWrite o d s).inputs = s.inputs := rfl
@[simp] theorem hostPalWrite_hostCalls (o : BitVec 2) (d : Byte) (s : State) : (hostPalWrite o d s).hostCalls = s.hostCalls + 1 := rfl
@[simp] theorem hostPalWrite_hostId (o : BitVec 2) (d : Byte) (s : State) : (hostPalWrite o d s).hostId = s.hostId := rfl
@[simp] theorem hostPalWrite_e6Table (o : BitVec 2) (d : Byte) (s : State) : (hostPalWrite o d s).e6Table = s.e6Table := rfl

/-! `hostPalRead` -/

@[simp] theorem hostPalRead_variant (o : BitVec 2) (s : State) : ((hostPalRead o s).2).variant = s.variant := rfl
@[simp] theorem hostPalRead_cr0 (o : BitVec 2) (s : State) : ((hostPalRead o s).2).cr0 = s.cr0 := rfl
@[simp] theorem hostPalRead_cr1 (o : BitVec 2) (s : State) : ((hostPalRead o s).2).cr1 = s.cr1 := rfl
@[simp] theorem hostPalRead_cr2 (o : BitVec 2) (s : State) : ((hostPalRead o s).2).cr2 = s.cr2 := rfl
@[simp] theorem hostPalRead_cr3 (o : BitVec 2) (s : State) : ((hostPalRead o s).2).cr3 = s.cr3 := rfl
@[simp] theorem hostPalRead_cr4 (o : BitVec 2) (s : State) : ((hostPalRead o s).2).cr4 = s.cr4 := rfl
@[simp] theorem hostPalRead_extAddr (o : BitVec 2) (s : State) : ((hostPalRead o s).2).extAddr = s.extAddr := rfl
@[simp] theorem hostPalRead_phase (o : BitVec 2) (s : State) : ((hostPalRead o s).2).phase = s.phase := rfl
@[simp] theorem hostPalRead_stR (o : BitVec 2) (s : State) : ((hostPalRead o s).2).stR = s.stR := rfl
@[simp] theorem hostPalRead_stG (o : BitVec 2) (s : State) : ((hostPalRead o s).2).stG = s.stG := rfl
@[simp] theorem hostPalRead_extPal (o : BitVec 2) (s : State) : ((hostPalRead o s).2).extPal = s.extPal := rfl
@[simp] theorem hostPalRead_cur32 (o : BitVec 2) (s : State) : ((hostPalRead o s).2).cur32 = s.cur32 := rfl
@[simp] theorem hostPalRead_cur64 (o : BitVec 2) (s : State) : ((hostPalRead o s).2).cur64 = s.cur64 := rfl
@[simp] theorem hostPalRead_curXcnt (o : BitVec 2) (s : State) : ((hostPalRead o s).2).curXcnt = s.curXcnt := rfl
@[simp] theorem hostPalRead_curYcnt (o : BitVec 2) (s : State) : ((hostPalRead o s).2).curYcnt = s.curYcnt := rfl
@[simp] theorem hostPalRead_host (o : BitVec 2) (s : State) : ((hostPalRead o s).2).host = keepWidth s.variant (Config.hostPalRead s.hostId s.hostCalls o s.host).2 := rfl
@[simp] theorem hostPalRead_events (o : BitVec 2) (s : State) : ((hostPalRead o s).2).events = s.events := rfl
@[simp] theorem hostPalRead_readData (o : BitVec 2) (s : State) : ((hostPalRead o s).2).readData = s.readData := rfl
@[simp] theorem hostPalRead_inputs (o : BitVec 2) (s : State) : ((hostPalRead o s).2).inputs = s.inputs := rfl
@[simp] theorem hostPalRead_hostCalls (o : BitVec 2) (s : State) : ((hostPalRead o s).2).hostCalls = s.hostCalls + 1 := rfl
@[simp] theorem hostPalRead_hostId (o : BitVec 2) (s : State) : ((hostPalRead o s).2).hostId = s.hostId := rfl
@[simp] theorem hostPalRead_e6Table (o : BitVec 2) (s : State) : ((hostPalRead o s).2).e6Table = s.e6Table := rfl

/-! `bppResolver` -/

@[simp] theorem bppResolver_variant (s : State) : (bppResolver s).variant = s.variant := rfl
@[simp] theorem bppResolver_cr0 (s : State) : (bppResolver s).cr0 = s.cr0 := rfl
@[simp] theorem bppResolver_cr1 (s : State) : (bppResolver s).cr1 = s.cr1 := rfl
@[simp] theorem bppResolver_cr2 (s : State) : (bppResolver s).cr2 = s.cr2 := rfl
@[simp] theorem bppResolver_cr3 (s : State) : (bppResolver s).cr3 = s.cr3 := rfl
@[simp] theorem bppResolver_cr4 (s : State) : (bppResolver s).cr4 = s.cr4 := rfl
@[simp] theorem bppResolver_extAddr (s : State) : (bppResolver s).extAddr = s.extAddr := rfl
@[simp] theorem bppResolver_phase (s : State) : (bppResolver s).phase = s.phase := rfl
@[simp] theorem bppResolver_stR (s : State) : (bppResolver s).stR = s.stR := rfl
@[simp] theorem bppResolver_stG (s : State) : (bppResolver s).stG = s.stG := rfl
@[simp] theorem bppResolver_extPal (s : State) : (bppResolver s).extPal = s.extPal := rfl
@[simp] theorem bppResolver_cur32 (s : State) : (bppResolver s).cur32 = s.cur32 := rfl
@[simp] theorem bppResolver_cur64 (s : State) : (bppResolver s).cur64 = s.cur64 := rfl
@[simp] theorem bppResolver_curXcnt (s : State) : (bppResolver s).curXcnt = s.curXcnt := rfl
@[simp] theorem bppResolver_curYcnt (s : State) : (bppResolver s).curYcnt = s.curYcnt := rfl
@[simp] theorem bppResolver_host (s : State) : (bppResolver s).host = { s.host with bpp := resolveDepth s.cr1 s.cr2 } := rfl
@[simp] theorem bppResolver_events (s : State) : (bppResolver s).events = s.events ++ [Event.recalc] := rfl
@[simp] theorem bppResolver_readData (s : State) : (bppResolver s).readData = s.readData := rfl
@[simp] theorem bppResolver_inputs (s : State) : (bppResolver s).inputs = s.inputs := rfl
@[simp] theorem bppResolver_hostCalls (s : State) : (bppResolver s).hostCalls = s.hostCalls := rfl
@[simp] theorem bppResolver_hostId (s : State) : (bppResolver s).hostId = s.hostId := rfl
@[simp] theorem bppResolver_e6Table (s : State) : (bppResolver s).e6Table = s.e6Table := rfl

/-! `resetPosition` -/

@[simp] theorem resetPosition_addr (rs : RegSel) (h : HostShared) : (resetPosition rs h).addr = h.addr := rfl
@[simp] theorem resetPosition_pos (rs : RegSel) (h : HostShared) : (resetPosition rs h).pos = 0 := rfl
@[simp] theorem resetPosition_status (rs : RegSel) (h : HostShared) : (resetPosition rs h).status = dacStatus rs := rfl
@[simp] theorem resetPosition_prec8 (rs : RegSel) (h : HostShared) : (resetPosition rs h).prec8 = h.prec8 := rfl
@[simp] theorem resetPosition_bpp (rs : RegSel) (h : HostShared) : (resetPosition rs h).bpp = h.bpp := rfl
@[simp] theorem resetPosition_curEnable (rs : RegSel) (h : HostShared) : (resetPosition rs h).curEnable = h.curEnable := rfl
@[simp] theorem resetPosition_curSize (rs : RegSel) (h : HostShared) : (resetPosition rs h).curSize = h.curSize := rfl
@[simp] theorem resetPosition_curYOff (rs : RegSel) (h : HostShared) : (resetPosition rs h).curYOff = h.curYOff := rfl
@[simp] theorem resetPosition_curX (rs : RegSel) (h : HostShared) : (resetPosition rs h).curX = h.curX := rfl
@[simp] theorem resetPosition_curY (rs : RegSel) (h : HostShared) : (resetPosition rs h).curY = h.curY := rfl
@[simp] theorem resetPosition_overscan (rs : RegSel) (h : HostShared) : (resetPosition rs h).overscan = h.overscan := rfl
@[simp] theorem resetPosition_ovEn (rs : RegSel) (h : HostShared) : (resetPosition rs h).ovEn = h.ovEn := rfl

/-! `keepWidth` -/

@[simp] theorem keepWidth_addr (v : Variant) (h : HostShared) : (keepWidth v h).addr = h.addr &&& amask v := rfl
@[simp] theorem keepWidth_pos (v : Variant) (h : HostShared) : (keepWidth v h).pos = h.pos := rfl
@[simp] theorem keepWidth_status (v : Variant) (h : HostShared) : (keepWidth v h).status = h.status := rfl
@[simp] theorem keepWidth_prec8 (v : Variant) (h : HostShared) : (keepWidth v h).prec8 = h.prec8 := rfl
@[simp] theorem keepWidth_bpp (v : Variant) (h : HostShared) : (keepWidth v h).bpp = h.bpp := rfl
@[simp] theorem keepWidth_curEnable (v : Variant) (h : HostShared) : (keepWidth v h).curEnable = h.curEnable := rfl
@[simp] theorem keepWidth_curSize (v : Variant) (h : HostShared) : (keepWidth v h).curSize = h.curSize := rfl
@[simp] theorem keepWidth_curYOff (v : Variant) (h : HostShared) : (keepWidth v h).curYOff = h.curYOff := rfl
@[simp] theorem keepWidth_curX (v : Variant) (h : HostShared) : (keepWidth v h).curX = h.curX := rfl
@[simp] theorem keepWidth_curY (v : Variant) (h : HostShared) : (keepWidth v h).curY = h.curY := rfl
@[simp] theorem keepWidth_overscan (v : Variant) (h : HostShared) : (keepWidth v h).overscan = h.overscan := rfl
@[simp] theorem keepWidth_ovEn (v : Variant) (h : HostShared) : (keepWidth v h).ovEn = h.ovEn := rfl

end Sys2Proof.Machine
end

