-- ==== Sys2Proof/Laws/Ops.lean ====
section
/-! SUPPORT. One lemma per shared operation that says once what it does, in the spec's own arithmetic. Later proofs cite
these and unfold no operation. -/

namespace Sys2Proof.Machine

/-! ### Transactions -/

theorem completeWrite_next {f : State → State} {s t : State} :
    completeWrite f s = .next t ↔ t = f (beginTransaction s) := by
  simp only [completeWrite, Host.Outcome.next.injEq]; exact eq_comm

theorem completeRead_next {f : State → Byte × State} {s t : State} :
    completeRead f s = .next t ↔
      t = { (f (beginTransaction s)).2 with readData := some (f (beginTransaction s)).1 } := by
  simp only [completeRead, Host.Outcome.next.injEq]; exact eq_comm

/-! ### Bits and remainders -/

theorem toNat_and_255 (a : BitVec 10) : (a &&& 0x0FF#10).toNat = a.toNat % 256 := by
  rw [BitVec.toNat_and]; exact Nat.and_two_pow_sub_one_eq_mod a.toNat 8

theorem toNat_and_1023 (a : BitVec 10) : a &&& 0x3FF#10 = a := by
  apply BitVec.eq_of_toNat_eq
  rw [BitVec.toNat_and]
  exact (Nat.and_two_pow_sub_one_eq_mod a.toNat 10).trans (Nat.mod_eq_of_lt a.isLt)

/-- The counter masked to the tier's width (R20). -/
theorem toNat_and_amask (v : Variant) (a : BitVec 10) :
    (a &&& amask v).toNat = a.toNat % (if v = .v0 then 256 else 1024) := by
  have h3 : (a &&& 0x3FF#10).toNat = a.toNat % 1024 := by
    rw [toNat_and_1023]; exact (Nat.mod_eq_of_lt a.isLt).symm
  cases v
  · exact toNat_and_255 a
  all_goals exact h3

/-- `IncAddr`'s counter (R104, R68): plus one, modulo the tier's width. -/
theorem toNat_nextAddr (v : Variant) (a : BitVec 10) :
    (nextAddr v a).toNat = (a.toNat + 1) % (if v = .v0 then 256 else 1024) := by
  rw [nextAddr, toNat_and_amask, BitVec.toNat_add]
  have h1 : (1#10).toNat = 1 := rfl
  rw [h1]
  split <;> omega

theorem and_amask_eq (v : Variant) (a : BitVec 10) :
    a &&& amask v = BitVec.ofNat 10 (a.toNat % (if v = .v0 then 256 else 1024)) := by
  apply BitVec.eq_of_toNat_eq
  rw [toNat_and_amask, BitVec.toNat_ofNat]
  split <;> omega

theorem nextAddr_eq (v : Variant) (a : BitVec 10) :
    nextAddr v a = BitVec.ofNat 10 ((a.toNat + 1) % (if v = .v0 then 256 else 1024)) := by
  apply BitVec.eq_of_toNat_eq
  rw [toNat_nextAddr, BitVec.toNat_ofNat]
  split <;> omega

/-- The host's duty on the counter's width (R230, D23). -/
theorem hostDuty_iff (v : Variant) (h : HostShared) :
    hostDuty v h = true ↔ (v = .v0 → h.addr.toNat < 256) := by
  have := h.addr.isLt
  cases v <;> simp [hostDuty, amask, BitVec.le_def] <;> omega

/-- A counter masked to the tier's width keeps the host's duty. -/
theorem hostDuty_masked (v : Variant) (h : HostShared) (a : BitVec 10) :
    hostDuty v { h with addr := a &&& amask v } = true := by
  rw [hostDuty_iff]
  intro hv
  change (a &&& amask v).toNat < 256
  rw [toNat_and_amask, if_pos hv]
  exact Nat.mod_lt _ (by norm_num)

theorem hasExt_iff (v : Variant) : hasExt v = true ↔ v ≠ .v0 := by cases v <;> simp [hasExt]

theorem hasCr4_iff (v : Variant) : hasCr4 v = true ↔ v = .v3 := by cases v <;> simp [hasCr4]

/-- cr3 bits 1:0 as counter bits 9:8. -/
theorem toNat_cr3AddrBits (c : Byte) : (cr3AddrBits c).toNat = c.toNat % 4 * 256 := by
  revert c; decide

/-- A byte below two bits: the sum and the union are the same. -/
theorem or_cr3AddrBits (a : BitVec 10) (ha : a.toNat < 256) (c : Byte) :
    (a ||| cr3AddrBits c).toNat = a.toNat + c.toNat % 4 * 256 := by
  rw [BitVec.toNat_or, toNat_cr3AddrBits, Nat.or_comm]
  rw [Nat.mul_comm, ← Nat.two_pow_add_eq_or_of_lt (i := 8) ha]
  omega

/-- The index loaded at code 0x3 before the increment (R123). -/
theorem toNat_orCr3Bits_byte (v : Variant) (c d : Byte) :
    (orCr3Bits v c (d.setWidth 10)).toNat = if v = .v0 then d.toNat else d.toNat + c.toNat % 4 * 256 := by
  have hd : (d.setWidth 10).toNat = d.toNat := by
    rw [BitVec.toNat_setWidth]; exact Nat.mod_eq_of_lt (by have := d.isLt; omega)
  have ho := or_cr3AddrBits (d.setWidth 10) (by rw [hd]; exact d.isLt) c
  rw [hd] at ho
  cases v <;> simp [orCr3Bits, hasExt, hd, ho]

/-- Counter bits 9:8 replaced by cr3 bits 1:0 (R134, D7). -/
theorem toNat_replaceHighBits (a : BitVec 10) (c : Byte) :
    (replaceHighBits a c).toNat = a.toNat % 256 + c.toNat % 4 * 256 := by
  have h : (a &&& 0xFF#10).toNat = a.toNat % 256 := toNat_and_255 a
  rw [replaceHighBits, or_cr3AddrBits _ (by rw [h]; omega), h]

/-- The sub-address (R103). -/
theorem toNat_subAddress (s : State) : (subAddress s).toNat = s.host.addr.toNat % 256 := by
  rw [subAddress, BitVec.toNat_setWidth]

theorem subAddress_eq_iff (s : State) (k : Byte) : subAddress s = k ↔ s.host.addr.toNat % 256 = k.toNat := by
  rw [← toNat_subAddress, BitVec.toNat_inj]

/-- The gate (R102). -/
theorem subRegGate_iff (s : State) : subRegGate s = true ↔ s.variant ≠ .v0 ∧ 128 ≤ s.cr0.toNat := by
  have h : ∀ c : Byte, c.getLsbD 7 = true ↔ 128 ≤ c.toNat := by decide
  rw [subRegGate, Bool.and_eq_true, hasExt_iff, h]

/-- The extended-palette entry (R63). -/
theorem toNat_extEntry (s : State) : (extEntry s).toNat = s.extAddr.toNat % 4 := by
  simp [extEntry]

theorem toNat_mergeLow (c : BitVec 12) (d : Byte) : (mergeLow c d).toNat = c.toNat / 256 * 256 + d.toNat := by
  have hc : (c &&& 0xF00#12).toNat = 2 ^ 8 * (c.toNat / 256) := by
    revert c; decide
  have hd : (d.setWidth 12).toNat = d.toNat := by
    rw [BitVec.toNat_setWidth]; exact Nat.mod_eq_of_lt (by have := d.isLt; omega)
  rw [mergeLow, BitVec.toNat_or, hc, hd, ← Nat.two_pow_add_eq_or_of_lt (i := 8) d.isLt]
  omega

theorem toNat_mergeHigh (c : BitVec 12) (d : Byte) : (mergeHigh c d).toNat = d.toNat % 16 * 256 + c.toNat % 256 := by
  have hc : (c &&& 0x0FF#12).toNat = c.toNat % 256 := by
    rw [BitVec.toNat_and]; exact Nat.and_two_pow_sub_one_eq_mod c.toNat 8
  have hd : ((d &&& 0x0F#8).setWidth 12 <<< 8).toNat = 2 ^ 8 * (d.toNat % 16) := by revert d; decide
  rw [mergeHigh, BitVec.toNat_or, hc, hd, Nat.or_comm,
    ← Nat.two_pow_add_eq_or_of_lt (i := 8) (by omega : c.toNat % 256 < 2 ^ 8)]
  omega

theorem toNat_counterLow (c : BitVec 12) : (counterLow c).toNat = c.toNat % 256 := by
  rw [counterLow, BitVec.toNat_setWidth]

theorem toNat_counterHigh (c : BitVec 12) : (counterHigh c).toNat = c.toNat / 256 := by
  revert c; decide

/-! ### Cursor RAM -/

/-- `CursorSelect` (R105): the buffer, and the index masked into it. -/
theorem cursorSelect_eq (s : State) (i : BitVec 10) :
    cursorSelect s i = if s.variant ≠ .v0 ∧ s.host.curSize = .size64 then (.cur64, i.toNat) else (.cur32, i.toNat % 256) := by
  have h : hasExt s.variant && s.host.curSize == .size64 ↔ s.variant ≠ .v0 ∧ s.host.curSize = .size64 := by
    rw [Bool.and_eq_true, hasExt_iff, beq_iff_eq]
  have hi : (i &&& 0xFF#10).toNat = i.toNat % 256 := toNat_and_255 i
  unfold cursorSelect
  by_cases hc : s.variant ≠ .v0 ∧ s.host.curSize = .size64
  · rw [if_pos (h.mpr hc), if_pos hc, toNat_and_1023]
  · rw [if_neg (fun hh => hc (h.mp hh)), if_neg hc, hi]

/-- A selected index lies inside its buffer (R47). -/
theorem cursorSelect_lt (s : State) (i : BitVec 10) :
    (cursorSelect s i).2 < (match (cursorSelect s i).1 with
      | .cur32 => 256
      | .cur64 => 1024) := by
  rw [cursorSelect_eq]
  split
  · exact i.isLt
  · exact Nat.mod_lt _ (by norm_num)

/-- A store changes the selected buffer and nothing else (R137). -/
theorem storeCursor_eq (s : State) (p : CursorBuffer × Nat) (d : Byte) :
    storeCursor s p d =
      { s with
        cur32 := if p.1 = .cur32 then writeByte s.cur32 p.2 d else s.cur32
        cur64 := if p.1 = .cur64 then writeByte s.cur64 p.2 d else s.cur64 } := by
  obtain ⟨b, n⟩ := p
  cases b <;> rfl

theorem toNat_cursorWriteIndex (s : State) : (cursorWriteIndex s).toNat = s.host.addr.toNat := by
  rw [cursorWriteIndex, toNat_and_1023]

theorem toNat_cursorReadIndex (s : State) : (cursorReadIndex s).toNat = (s.host.addr.toNat + 1023) % 1024 := by
  rw [cursorReadIndex, BitVec.toNat_sub]
  have h1 : (1#10).toNat = 1 := rfl
  rw [h1]
  congr 1
  omega

/-! ### The extended palette -/

/-- An entry after an entry was replaced. -/
theorem palEntry_setPalEntry (s : State) (i j : BitVec 2) (e : PalEntry) :
    palEntry (setPalEntry s i e) j = if i = j then e else palEntry s j := by
  simp only [palEntry, setPalEntry_extPal, Vector.getElem_set, BitVec.toNat_inj]

/-- `OverscanUpdate` (R126) changes the overscan colour and the event list, and nothing else. -/
theorem overscanUpdate_eq (i : BitVec 2) (s : State) :
    overscanUpdate i s =
      let new := (palEntry s 0).packed.setWidth 32
      { s with
        host := { s.host with overscan := if i = 0 ∧ s.host.ovEn then new else s.host.overscan }
        events := if (i = 0 ∧ s.host.ovEn) ∧ new ≠ s.host.overscan then s.events ++ [.recalc] else s.events } := by
  unfold overscanUpdate
  by_cases h : i = 0 ∧ s.host.ovEn = true
  · simp only [if_pos h]
    by_cases hn : (palEntry s 0).packed.setWidth 32 = s.host.overscan
    · simp only [hn, ne_eq, not_true, if_false, and_false]; rfl
    · simp only [ne_eq, hn, not_false_eq_true, if_true, h, and_self]; rfl
  · simp only [h, false_and, if_false]

theorem extEntry_eq_zero_iff (s : State) : extEntry s = 0 ↔ s.extAddr.toNat % 4 = 0 := by
  rw [← toNat_extEntry, ← BitVec.toNat_inj]; rfl

/-- An entry replaced, by its number. -/
theorem set_eq_setIfInBounds (v : Vector PalEntry 4) (n : Nat) (i : BitVec 2) (h : i.toNat = n) (e : PalEntry) :
    v.set i.toNat e i.isLt = v.setIfInBounds n e := by
  subst h
  ext k hk
  rw [Vector.getElem_set, Vector.getElem_setIfInBounds]

/-- The third byte of a transfer (R125, R126): the entry, the overscan colour and its request, the address, the phase;
nothing else. -/
theorem completeEntry_eq (d : Byte) (s : State) :
    completeEntry d s =
      let packed := packColour s.host.prec8 s.e6Table s.stR s.stG d
      let copies := s.extAddr.toNat % 4 = 0 ∧ s.host.ovEn = true
      { s with
        events := if copies ∧ packed.setWidth 32 ≠ s.host.overscan then s.events ++ [.recalc] else s.events
        host := { s.host with overscan := if copies then packed.setWidth 32 else s.host.overscan }
        extPal := s.extPal.setIfInBounds (s.extAddr.toNat % 4) { r := s.stR, g := s.stG, b := d, packed := packed }
        extAddr := BitVec.ofNat 8 ((s.extAddr.toNat + 1) % 256)
        phase := .p0 } := by
  have hadd : s.extAddr + 1#8 = BitVec.ofNat 8 ((s.extAddr.toNat + 1) % 256) := by
    apply BitVec.eq_of_toNat_eq; simp
  have hp := set_eq_setIfInBounds s.extPal _ _ (toNat_extEntry s)
  simp only [completeEntry, overscanUpdate_eq, palEntry_setPalEntry, setPalEntry_host, setPalEntry_extAddr,
    setPalEntry_events, setPalEntry_extPal, hadd, hp]
  by_cases hc : s.extAddr.toNat % 4 = 0
  · have he : extEntry s = 0 := (extEntry_eq_zero_iff s).mpr hc
    simp only [he, if_true, true_and, hc]; rfl
  · have he : extEntry s ≠ 0 := fun h => hc ((extEntry_eq_zero_iff s).mp h)
    simp only [he, hc, false_and, if_false]; rfl

/-! ### Code 0xA and the displayed position -/

/-- What WR.IDX does (R133 to R136): cr3, cr4, or nothing. -/
theorem execWrIdx_eq (d : Byte) (s : State) :
    execWrIdx d s = .next (
      if subRegGate s = true ∧ subAddress s = 1 then writeCr3 d (beginTransaction s)
      else if subRegGate s = true ∧ subAddress s = 2 ∧ hasCr4 s.variant = true then
        { beginTransaction s with cr4 := d }
      else beginTransaction s) := by
  have e1 : subRegGate (beginTransaction s) = subRegGate s := rfl
  have e2 : subAddress (beginTransaction s) = subAddress s := rfl
  simp only [execWrIdx, completeWrite, e1, e2, beginTransaction_variant]
  by_cases g : subRegGate s = true <;> simp [g]

/-- What a cr3 write does (R134): cr3, one request, and five host-shared fields; nothing else. -/
theorem writeCr3_eq (d : Byte) (s : State) :
    writeCr3 d s =
      { s with
        cr3 := d
        events := s.events ++ [.recalc]
        host := { s.host with
          curSize := cr3CursorSize d
          curYOff := yOffFor (cr3CursorSize d)
          curX := displayed s.curXcnt (cr3CursorSize d)
          curY := displayed s.curYcnt (cr3CursorSize d)
          addr := replaceHighBits s.host.addr d } } := rfl

/-- An entry depends on the palette alone. -/
theorem palEntry_congr {s t : State} (h : t.extPal = s.extPal) (j : BitVec 2) : palEntry t j = palEntry s j := by
  simp only [palEntry, h]

/-- The range of the displayed position (R39, R110). -/
theorem displayed_range (c : BitVec 12) (z : CursorSize) : -64 ≤ displayed c z ∧ displayed c z ≤ 4063 := by
  have := c.isLt
  cases z <;> simp only [displayed, CursorSize.pixels] <;> omega

end Sys2Proof.Machine
end

