-- ==== Sys2Proof/Laws/PerInstr.lean ====
section
/-! SUPPORT. The per-instruction family `EncodedFields`: the word of every transaction has its direction in bit 12, its
code in bits 11:8 and, for a write, its data byte in bits 7:0 (R82); a read's data bits are written 0. -/

namespace Sys2Proof.Laws.EncodedFields

open Sys2Proof.Machine

/-- The fields of a transaction's word (R82). -/
def Statement (i : Instr) : Prop :=
  (encode i).getLsbD 12 = !i.isRead ∧ (encode i).extractLsb' 8 4 = i.code ∧
    (match i.access with
      | .write d => (encode i).extractLsb' 0 8 = d
      | .read => (encode i).extractLsb' 0 8 = 0)

theorem of_write {i : Instr} {d : Byte} (h : i.access = .write d) : Statement i := by
  have he : encode i = 0x1000#13 ||| (i.code.setWidth 13 <<< 8) ||| d.setWidth 13 := by simp only [encode, h]
  obtain ⟨h1, h2, h3⟩ := writeWord_fields i.code d
  have hr : i.isRead = false := by rw [Instr.isRead, h]; rfl
  rw [Statement, he, h1, h2, hr, h]
  exact ⟨rfl, rfl, h3⟩

theorem wrPwi (d : Byte) : Statement (.wrPwi d) := of_write rfl
theorem wrPd (d : Byte) : Statement (.wrPd d) := of_write rfl
theorem wrPmask (d : Byte) : Statement (.wrPmask d) := of_write rfl
theorem wrPri (d : Byte) : Statement (.wrPri d) := of_write rfl
theorem wrEpwi (d : Byte) : Statement (.wrEpwi d) := of_write rfl
theorem wrEpd (d : Byte) : Statement (.wrEpd d) := of_write rfl
theorem wrCr0 (d : Byte) : Statement (.wrCr0 d) := of_write rfl
theorem wrEpri (d : Byte) : Statement (.wrEpri d) := of_write rfl
theorem wrCr1 (d : Byte) : Statement (.wrCr1 d) := of_write rfl
theorem wrCr2 (d : Byte) : Statement (.wrCr2 d) := of_write rfl
theorem wrIdx (d : Byte) : Statement (.wrIdx d) := of_write rfl
theorem wrCram (d : Byte) : Statement (.wrCram d) := of_write rfl
theorem wrCxl (d : Byte) : Statement (.wrCxl d) := of_write rfl
theorem wrCxh (d : Byte) : Statement (.wrCxh d) := of_write rfl
theorem wrCyl (d : Byte) : Statement (.wrCyl d) := of_write rfl
theorem wrCyh (d : Byte) : Statement (.wrCyh d) := of_write rfl
theorem rdPwi : Statement .rdPwi := ⟨rfl, rfl, rfl⟩
theorem rdPd : Statement .rdPd := ⟨rfl, rfl, rfl⟩
theorem rdPmask : Statement .rdPmask := ⟨rfl, rfl, rfl⟩
theorem rdPri : Statement .rdPri := ⟨rfl, rfl, rfl⟩
theorem rdEpwi : Statement .rdEpwi := ⟨rfl, rfl, rfl⟩
theorem rdEpd : Statement .rdEpd := ⟨rfl, rfl, rfl⟩
theorem rdCr0 : Statement .rdCr0 := ⟨rfl, rfl, rfl⟩
theorem rdEpri : Statement .rdEpri := ⟨rfl, rfl, rfl⟩
theorem rdCr1 : Statement .rdCr1 := ⟨rfl, rfl, rfl⟩
theorem rdCr2 : Statement .rdCr2 := ⟨rfl, rfl, rfl⟩
theorem rdIdx : Statement .rdIdx := ⟨rfl, rfl, rfl⟩
theorem rdCram : Statement .rdCram := ⟨rfl, rfl, rfl⟩
theorem rdCxl : Statement .rdCxl := ⟨rfl, rfl, rfl⟩
theorem rdCxh : Statement .rdCxh := ⟨rfl, rfl, rfl⟩
theorem rdCyl : Statement .rdCyl := ⟨rfl, rfl, rfl⟩
theorem rdCyh : Statement .rdCyh := ⟨rfl, rfl, rfl⟩

end Sys2Proof.Laws.EncodedFields
end

