-- ==== Sys2Proof/Laws/Run.lean ====
section
/-! SUPPORT. How a run unfolds at a step. -/

namespace Sys2Proof.Machine

/-- A run of `k + 1` steps whose first step answers a next state is the run of `k` steps from there. -/
theorem run_succ_of_next {s u : State} (h : step s = .next u) (k : Nat) :
    Host.Core.run Sys2Proof.core (k + 1) s = Host.Core.run Sys2Proof.core k u := by
  have hc : Sys2Proof.core.step s = .next u := h
  simp only [Host.Core.run, hc]

end Sys2Proof.Machine
end

