-- ==== Sys2Proof/Tests/Slice0.lean ====
section
/-! SUPPORT. Tests. Expected values are the spec's own: the encodings of 30_encoding.md and the vectors of
95_test_vectors.md, named in each comment. Then a witness for each obligation that has hypotheses or clauses. -/

namespace Sys2Proof.Tests

open Sys2Proof Sys2Proof.Machine

/-- The state of a tier with a cr0 and a counter, all else as instantiated with the HOST_INIT of 95 part 3. -/
def mk (v : Variant) (cr0 : Byte) (addr : BitVec 10) : State :=
  { State.instantiate v resetSetup with cr0 := cr0, host := { resetHostInit with addr := addr } }

/-- A state whose next inputs are given. -/
def withInputs (s : State) (xs : List HostInput) : State := { s with inputs := xs }

/-- The state one transaction leads to. -/
def does (i : Instr) (s : State) : State :=
  match exec i s with
  | .next t => t
  | _ => State.reset

/-- Which refusal a step ends in. -/
def refusal {σ : Type} : Host.Outcome σ Fault Refusal → Option Refusal
  | .refused r => some r
  | _ => none

/-! ### Well-formedness: an ill-formed term for each check -/

/-- R82: a word has 13 bits. -/
theorem test_isTxnWord_refuses : isTxnWord 0x1FFF = true ∧ isTxnWord 0x2000 = false := by decide

/-- R82, D9: 0x0A7F is a read with data bits that are not 0; 0x1A7F is a write. -/
theorem test_canonical_refuses :
    TxnWord.canonical 0x0A00 = true ∧ TxnWord.canonical 0x1A7F = true ∧ TxnWord.canonical 0x0A7F = false := by decide

/-- R222, RST-2: a tier outside the four is refused. -/
theorem test_isTier_refuses :
    isTier 3 = true ∧ isTier 4 = false ∧
      refusal (instantiateRaw 4 resetSetup) = some (.unrecognizedVariant 4) := by decide

/-- R230, D23: on V0 the counter has 8 bits. -/
theorem test_hostDuty_refuses :
    hostDuty .v0 { resetHostInit with addr := 0x0FF } = true ∧
      hostDuty .v0 { resetHostInit with addr := 0x100 } = false ∧
      hostDuty .v1 { resetHostInit with addr := 0x3FF } = true := by decide

/-- R230, D23: a host input that breaks the duty, and the step that refuses it. -/
theorem test_inputOk_refuses :
    inputOk .v0 (.sets { resetHostInit with addr := 0x100 }) = false ∧
      inputOk .v0 (.transaction { access := .read, offset := 0, sel2 := false, sel3 := false }) = true ∧
      refusal (step (withInputs (mk .v0 0 0) [.sets { resetHostInit with addr := 0x100 }])) = some .hostOutsideWidth := by
  decide

/-- Bytes that are no transaction word are rejected by name (R82; the bytes are the model's, log 16). -/
theorem test_decodeBytes_refuses :
    (match decodeBytes [0x00] with | .error .truncated => true | _ => false) = true ∧
      (match decodeBytes [0x00, 0x20] with | .error .notATransactionWord => true | _ => false) = true ∧
      decodeTableWord 16 0x2000 = none ∧ decodeTableWord 24 0x1010 = none := by decide

/-! ### Decoding: the word of R82 for each row, written bit by bit as W, rs, D -/

/-- R84, codes 0x0 to 0x3, writes; D = 0x10, 0x3F, 0x80, 0xFF. -/
theorem test_decode_main_writes :
    decodeTableWord 16 0b1000000010000 = some (.wrPwi 0x10) ∧ decodeTableWord 16 0b1000100111111 = some (.wrPd 0x3F) ∧
      decodeTableWord 16 0b1001010000000 = some (.wrPmask 0x80) ∧
      decodeTableWord 16 0b1001111111111 = some (.wrPri 0xFF) := by decide

/-- R84, codes 0x4 to 0x7, writes; D = 0x05, 0x11, 0xA5, 0x05. -/
theorem test_decode_ext_writes :
    decodeTableWord 16 0b1010000000101 = some (.wrEpwi 0x05) ∧ decodeTableWord 16 0b1010100010001 = some (.wrEpd 0x11) ∧
      decodeTableWord 16 0b1011010100101 = some (.wrCr0 0xA5) ∧
      decodeTableWord 16 0b1011100000101 = some (.wrEpri 0x05) := by decide

/-- R84, codes 0x8 to 0xB, writes; D = 0x5A, 0xC3, 0x06, 0xFF (the last is DEC-8). -/
theorem test_decode_control_writes :
    decodeTableWord 16 0b1100001011010 = some (.wrCr1 0x5A) ∧ decodeTableWord 16 0b1100111000011 = some (.wrCr2 0xC3) ∧
      decodeTableWord 16 0b1101000000110 = some (.wrIdx 0x06) ∧
      decodeTableWord 16 0b1101111111111 = some (.wrCram 0xFF) := by decide

/-- R84, codes 0xC to 0xF, writes; D = 0x10, 0xFF, 0x40, 0x01. -/
theorem test_decode_cursor_writes :
    decodeTableWord 16 0b1110000010000 = some (.wrCxl 0x10) ∧ decodeTableWord 16 0b1110111111111 = some (.wrCxh 0xFF) ∧
      decodeTableWord 16 0b1111001000000 = some (.wrCyl 0x40) ∧
      decodeTableWord 16 0b1111100000001 = some (.wrCyh 0x01) := by decide

/-- R84, codes 0x0 to 0x7, reads. -/
theorem test_decode_low_reads :
    decodeTableWord 16 0b0000000000000 = some .rdPwi ∧ decodeTableWord 16 0b0000100000000 = some .rdPd ∧
      decodeTableWord 16 0b0001000000000 = some .rdPmask ∧ decodeTableWord 16 0b0001100000000 = some .rdPri ∧
      decodeTableWord 16 0b0010000000000 = some .rdEpwi ∧ decodeTableWord 16 0b0010100000000 = some .rdEpd ∧
      decodeTableWord 16 0b0011000000000 = some .rdCr0 ∧ decodeTableWord 16 0b0011100000000 = some .rdEpri := by decide

/-- R84, codes 0x8 to 0xF, reads; the ignored data bits of code 0xA are those of DEC-7. -/
theorem test_decode_high_reads :
    decodeTableWord 16 0b0100000000000 = some .rdCr1 ∧ decodeTableWord 16 0b0100100000000 = some .rdCr2 ∧
      decodeTableWord 16 0b0101001111111 = some .rdIdx ∧ decodeTableWord 16 0b0101100000000 = some .rdCram ∧
      decodeTableWord 16 0b0110000000000 = some .rdCxl ∧ decodeTableWord 16 0b0110100000000 = some .rdCxh ∧
      decodeTableWord 16 0b0111000000000 = some .rdCyl ∧ decodeTableWord 16 0b0111100000000 = some .rdCyh := by decide

/-- DEC-1 to DEC-6: the code from the pins. -/
theorem test_registerSelect :
    registerSelect false false 0 = 0x0 ∧ registerSelect true false 1 = 0x9 ∧ registerSelect false true 0x3C9 = 0x5 ∧
      registerSelect true true 3 = 0xF ∧ registerSelect true false 0x3C6 = 0xA ∧ registerSelect false true 2 = 0x6 := by
  decide

/-- R82's formula, `0x1000 | rs << 8 | D` and `rs << 8`, on words of 95 part 1 and part 2. -/
theorem test_encode :
    encode (.wrCr2 0xC3) = 0x19C3 ∧ encode (.wrEpd 0x11) = 0x1511 ∧ encode (.wrCyh 0x01) = 0x1F01 ∧
      encode .rdIdx = 0x0A00 ∧ encode .rdCyh = 0x0F00 := by decide

/-- A placed word is the next step's instruction (log 1): 0x16A5 writes 0xA5 to cr0 (S-1). -/
theorem test_withFetchWord :
    (match step (State.reset.withFetchWord 16 0x16A5) with | .next t => t.cr0 | _ => 0) = 0xA5 := by decide

/-! ### Codes 0x0 to 0x3 -/

/-- HP-1 to HP-4, the part that does not rest on the host: the core keeps its state and no event is appended. -/
theorem test_host_writes_keep_core :
    ((does (.wrPwi 0x10) { mk .v1 0 5 with cr3 := 2 }).cr3, (does (.wrPwi 0x10) (mk .v1 0 5)).events) = (2, []) ∧
      ((does (.wrPd 0x3F) { mk .v1 0 5 with cr3 := 3 }).cr3, (does (.wrPd 0x3F) (mk .v1 0 5)).extAddr) = (3, 0) ∧
      ((does (.wrPmask 0x3F) { mk .v1 0 5 with cr3 := 3 }).cr3, (does (.wrPmask 0x3F) (mk .v1 0 5)).phase) = (3, .p0) := by
  decide

/-- HP-5: the byte is the host's, at the code's own offset; RD.PWI and RD.PD likewise (R160, R161). -/
theorem test_host_reads (s : State) :
    (does .rdPmask s).readData = some (Config.hostPalRead s.hostId s.hostCalls 2 s.host).1 ∧
      (does .rdPwi s).readData = some (Config.hostPalRead s.hostId s.hostCalls 0 s.host).1 ∧
      (does .rdPd s).readData = some (Config.hostPalRead s.hostId s.hostCalls 1 s.host).1 := ⟨rfl, rfl, rfl⟩

/-- PRI-1 and PRI-5 (V0), PRI-2 (V1, cr3 = 3). -/
theorem test_wrPri_wraps :
    ((does (.wrPri 0xFF) (mk .v0 0 5)).host.addr, (does (.wrPri 0xFF) (mk .v0 0 5)).host.status) = (0x00, 3) ∧
      (does (.wrPri 0x10) (mk .v0 0 5)).host.addr = 0x11 ∧
      (does (.wrPri 0xFF) { mk .v1 0 5 with cr3 := 3 }).host.addr = 0x000 := by decide

/-- PRI-3, PRI-4 and PRI-6. -/
theorem test_rdPri :
    (does (.wrPri 0x10) { mk .v1 0 5 with cr3 := 1 }).host.addr = 0x111 ∧
      (does .rdPri (does (.wrPri 0x10) { mk .v1 0 5 with cr3 := 1 })).readData = some 0x11 ∧
      (does .rdPri (does (.wrPri 0xFF) (mk .v1 0 5))).readData = some 0x00 ∧
      (does .rdPri (mk .v3 0 0x2A7)).readData = some 0xA7 := by decide

/-! ### Codes 0x4, 0x5, 0x7 -/

/-- EP-1. -/
theorem test_wrEpwi :
    (does (.wrEpwi 0xFF) (mk .v0 0 0)).extAddr = 0xFF ∧ (does (.wrEpwi 0xFF) (mk .v0 0 0)).host.status = 0 ∧
      (does .rdEpwi (does (.wrEpwi 0xFF) (mk .v0 0 0))).readData = some 0xFF := by decide

/-- EP-2 and EP-3. -/
theorem test_wrEpri :
    (does (.wrEpri 0xFF) (mk .v0 0 0)).extAddr = 0x00 ∧ (does (.wrEpri 0xFF) (mk .v0 0 0)).host.status = 3 ∧
      (does .rdEpri (does (.wrEpri 0xFF) (mk .v0 0 0))).readData = some 0x00 ∧
      (does .rdEpwi (does (.wrEpri 0x05) (mk .v0 0 0))).readData = some 0x06 := by decide

/-- A state in 8-bit mode about to take the third byte of a transfer. -/
def thirdByte (ovEn : Bool) (extAddr r g : Byte) : State :=
  { mk .v0 0 0 with
    phase := .p2, stR := r, stG := g, extAddr := extAddr, host := { resetHostInit with prec8 := true, ovEn := ovEn } }

/-- S-3 and EP-4, at the third byte: the entry with its packed colour, the address, the phase. -/
theorem test_wrEpd_completes :
    palEntry (does (.wrEpd 0x33) (thirdByte false 0 0x11 0x22)) 0 = { r := 0x11, g := 0x22, b := 0x33, packed := 0x112233 } ∧
      palEntry (does (.wrEpd 0x03) (thirdByte false 0xFF 0x01 0x02)) 3 = { r := 1, g := 2, b := 3, packed := 0x010203 } ∧
      (does (.wrEpd 0x03) (thirdByte false 0xFF 0x01 0x02)).extAddr = 0x00 ∧
      (does (.wrEpd 0x03) (thirdByte false 0xFF 0x01 0x02)).phase = .p0 := by decide

/-- OV-1, OV-2, OV-3, OV-4 and OV-5, at the third byte. -/
theorem test_wrEpd_overscan :
    (let t := does (.wrEpd 0x30) (thirdByte true 0 0x10 0x20); (t.host.overscan, t.events)) = (0x00102030, [.recalc]) ∧
      (let s := thirdByte true 0 0x10 0x20
       let t := does (.wrEpd 0x30) { s with host := { s.host with overscan := 0x00102030 } }
       (t.host.overscan, t.events)) = (0x00102030, []) ∧
      (let t := does (.wrEpd 0x30) (thirdByte false 0 0x10 0x20); (t.host.overscan, t.events)) = (0, []) ∧
      (let t := does (.wrEpd 0x30) (thirdByte true 1 0x10 0x20); (t.host.overscan, t.events)) = (0, []) ∧
      (does (.wrEpd 0x00) (thirdByte true 4 0 0)).events = [] := by decide

/-- EP-7, EP-10 and EP-11. -/
theorem test_rdEpd :
    (let s := setPalEntry { mk .v0 0 0 with extAddr := 2, phase := .p1 } 2 { r := 0, g := 0, b := 0xFF, packed := 0 }
     ((does .rdEpd s).readData, (does .rdEpd s).extAddr, (does .rdEpd s).phase)) = (some 0x3F, 3, .p0) ∧
      (let s := setPalEntry (thirdByte false 0xFF 0x11 0x22) 3 { r := 0, g := 0, b := 0x12, packed := 0 }
       ((does .rdEpd s).readData, (does .rdEpd s).extAddr, (does .rdEpd s).stR, (does .rdEpd s).stG)) =
        (some 0x12, 0x00, 0x11, 0x22) := by decide

/-- R261: another expansion table is in force and no packed colour is recomputed. -/
theorem test_table_change_keeps_packed (s : State) :
    (match step (withInputs s [.table 7]) with | .next t => (t.e6Table, t.extPal, t.events) | _ => (0, s.extPal, [])) =
      (7, s.extPal, s.events) := rfl

/-! ### Codes 0x6, 0x8, 0x9 -/

/-- S-1, CMD-1 and CMD-2. -/
theorem test_cr0 :
    (does .rdCr0 (does (.wrCr0 0xA5) (mk .v2 0 0))).readData = some 0xA5 ∧
      (does (.wrCr0 0x82) (mk .v2 0 0)).host.prec8 = true ∧ (does (.wrCr0 0x80) (mk .v2 0 0)).host.prec8 = false := by
  decide

/-- S-1 and BPP-12. -/
theorem test_cr1 :
    (does .rdCr1 (does (.wrCr1 0x5A) (mk .v2 0 0))).readData = some 0x5A ∧
      (let t := does (.wrCr1 0x28) { mk .v2 0 0 with cr1 := 0x28, cr2 := 0x20 }; (t.host.bpp, t.events)) =
        (.bpp16, [.recalc]) := by decide

/-- S-1, CMD-5, CMD-6 and BPP-11's second write. -/
theorem test_cr2 :
    (does .rdCr2 (does (.wrCr2 0xC3) (mk .v2 0 0))).readData = some 0xC3 ∧
      (let t := does (.wrCr2 0x01) (mk .v2 0 0); (t.host.curEnable, t.host.bpp, t.events)) = (true, .bpp8, [.recalc]) ∧
      (does (.wrCr2 0x02) (mk .v2 0 0)).host.curEnable = true ∧ (does (.wrCr2 0x00) (mk .v2 0 0)).host.curEnable = false ∧
      (does (.wrCr2 0x20) { mk .v2 0 0 with cr1 := 0x60 }).host.bpp = .bpp4 := by decide

/-- BPP-1 to BPP-10. -/
theorem test_bpp_table :
    [(0x9F, 0x00), (0x00, 0x20), (0x28, 0x20), (0x20, 0x20), (0x40, 0x20), (0x60, 0x20), (0x9F, 0x20), (0x60, 0xDF),
        (0x7F, 0x20), (0x08, 0x20)].map (fun p : Byte × Byte => (resolveDepth p.1 p.2).bits) =
      [8, 32, 16, 15, 8, 4, 32, 8, 4, 32] := by decide

/-! ### Code 0xA -/

/-- IDX-3 and IDX-4. -/
theorem test_wrIdx_cr3 :
    (let s : State := { mk .v1 0x80 0x001 with curXcnt := 0x100, curYcnt := 0x080 }
     let t := does (.wrIdx 0x06) s
     t.cr3 = 0x06 ∧ t.events = [.recalc] ∧
       t.host = { s.host with curSize := .size64, curYOff := .off0, curX := 192, curY := 64, addr := 0x201 }) ∧
      (let s : State := { mk .v1 0x80 0x301 with cr3 := 0xFF }
       let t := does (.wrIdx 0x00) s
       t.cr3 = 0x00 ∧ t.events = [.recalc] ∧
         t.host = { s.host with curSize := .size32, curYOff := .off32, curX := -32, curY := -32, addr := 0x001 }) := by
  decide

/-- IDX-5; then the no-ops: IDX-1, IDX-2, IDX-6, IDX-7, IDX-15 and IDX-17. -/
theorem test_wrIdx_cr4_and_no_op :
    (let t := does (.wrIdx 0x5C) (mk .v3 0x80 0x102); (t.cr4, t.host.addr, t.events)) = (0x5C, 0x102, []) ∧
      does (.wrIdx 0x04) (mk .v0 0x80 0x01) = mk .v0 0x80 0x01 ∧
      does (.wrIdx 0x04) (mk .v1 0x00 0x001) = mk .v1 0x00 0x001 ∧
      does (.wrIdx 0x5C) (mk .v1 0x80 0x002) = mk .v1 0x80 0x002 ∧
      does (.wrIdx 0xAA) (mk .v3 0x80 0x020) = mk .v3 0x80 0x020 ∧
      does (.wrIdx 0x5C) (mk .v3 0x00 0x002) = mk .v3 0x00 0x002 ∧
      does (.wrIdx 0xFF) (mk .v1 0x80 0x000) = mk .v1 0x80 0x000 := by decide

/-- IDX-10 and IDX-11 (cr3), IDX-5 (cr4), IDX-7 and IDX-8 (placeholders). -/
theorem test_rdIdx_registers :
    (does .rdIdx { mk .v1 0x80 0x101 with cr3 := 0x04 }).readData = some 0x05 ∧
      (does .rdIdx { mk .v2 0x80 0x301 with cr3 := 0xC7 }).readData = some 0x07 ∧
      (does .rdIdx { mk .v3 0x80 0x102 with cr4 := 0x5C }).readData = some 0x5C ∧
      (does .rdIdx (mk .v3 0x80 0x020)).readData = some 0xFF ∧ (does .rdIdx (mk .v3 0x80 0x022)).readData = some 0xFF := by
  decide

/-- IDX-1, IDX-6, IDX-9, IDX-12, IDX-13, IDX-15, IDX-16 and IDX-18: the status byte. -/
theorem test_rdIdx_status :
    (does .rdIdx (mk .v0 0x80 0x01)).readData = some 0x40 ∧ (does .rdIdx (mk .v1 0x80 0x002)).readData = some 0x60 ∧
      (does .rdIdx (mk .v1 0x80 0x020)).readData = some 0x60 ∧
      (does .rdIdx { mk .v2 0x80 0 with host := { resetHostInit with pos := 1 } }).readData = some 0xD4 ∧
      (does .rdIdx { mk .v3 0x80 0 with host := { resetHostInit with pos := 2 } }).readData = some 0x24 ∧
      (does .rdIdx (mk .v3 0x00 0x002)).readData = some 0x20 ∧ (does .rdIdx (mk .v2 0x80 0x022)).readData = some 0xD0 ∧
      (does .rdIdx { mk .v0 0 0 with host := { resetHostInit with pos := 1 } }).readData = some 0x44 := by decide

/-! ### Code 0xB -/

/-- A state with a 64 by 64 cursor. -/
def big (v : Variant) (addr : BitVec 10) : State :=
  { mk v 0 addr with host := { resetHostInit with addr := addr, curSize := .size64 } }

/-- CR-1, CR-2, CR-3 and CR-5. -/
theorem test_wrCram :
    (let t := does (.wrCram 0x11) (mk .v0 0 0xFF); (readByte t.cur32 0xFF, t.host.addr)) = (0x11, 0x00) ∧
      (let t := does (.wrCram 0x22) (big .v0 0x10); (readByte t.cur32 0x10, t.cur64, t.host.addr)) = (0x22, [], 0x11) ∧
      (let t := does (.wrCram 0x33) (big .v1 0x3FF); (readByte t.cur64 0x3FF, t.cur32, t.host.addr)) = (0x33, [], 0x000) ∧
      (let t := does (.wrCram 0x44) (mk .v1 0 0x1FF); (readByte t.cur32 0xFF, t.host.addr)) = (0x44, 0x200) := by decide

/-- CR-6, CR-7, CR-9 and CR-10. -/
theorem test_rdCram :
    (let t := does .rdCram { big .v1 0x000 with cur64 := [(0x3FF, 0x5A)] }; (t.readData, t.host.addr)) = (some 0x5A, 0x001) ∧
      (let t := does .rdCram { mk .v0 0 0x00 with cur32 := [(0xFF, 0x5A)] }; (t.readData, t.host.addr)) = (some 0x5A, 0x01) ∧
      (let t := does .rdCram { mk .v1 0 0x105 with cur32 := [(4, 0x5A)] }; (t.readData, t.host.addr)) = (some 0x5A, 0x106) ∧
      (let t := does .rdCram { mk .v0 0 0xFF with cur32 := [(0xFE, 0x5A)] }; (t.readData, t.host.addr)) =
        (some 0x5A, 0x00) := by decide

/-! ### Codes 0xC to 0xF -/

/-- A state with given counters. -/
def counters (x y : BitVec 12) : State := { mk .v0 0 0 with curXcnt := x, curYcnt := y }

/-- CUR-1 and CUR-5. -/
theorem test_wrCxl :
    (let t := does (.wrCxl 0x10) (counters 0 0); (t.curXcnt, t.host.curX)) = (0x010, -16) ∧
      (does (.wrCxl 0x00) (big .v1 0)).host.curX = -64 := by decide

/-- CUR-2, CUR-6 and CUR-7. -/
theorem test_wrCxh :
    (let t := does (.wrCxh 0xFF) (counters 0x010 0); (t.curXcnt, t.host.curX)) = (0xF10, 3824) ∧
      (let t := does (.wrCxh 0x0F) (counters 0x0FF 0); (t.curXcnt, t.host.curX)) = (0xFFF, 4063) ∧
      (let t := does (.wrCxh 0x30) (counters 0x0AB 0); (t.curXcnt, t.host.curX)) = (0x0AB, 139) := by decide

/-- CUR-3 and CUR-4. -/
theorem test_wrCy :
    (let t := does (.wrCyl 0x40) { big .v1 0 with curYcnt := 0x100 }; (t.curYcnt, t.host.curY)) = (0x140, 256) ∧
      (let t := does (.wrCyh 0x01) (counters 0 0x020); (t.curYcnt, t.host.curY)) = (0x120, 256) := by decide

/-- The reads of CUR-2 and CUR-3. -/
theorem test_counter_reads :
    (does .rdCxl (counters 0xF10 0)).readData = some 0x10 ∧ (does .rdCxh (counters 0xF10 0)).readData = some 0x0F ∧
      (does .rdCyl (counters 0 0x140)).readData = some 0x40 ∧ (does .rdCyh (counters 0 0x140)).readData = some 0x01 := by
  decide

/-- S-7 and RST-1: the status byte of a fresh instance of each tier. -/
theorem test_fresh_status :
    [Variant.v0, .v1, .v2, .v3].map (fun v => (does .rdIdx (State.instantiate v resetSetup)).readData) =
      [some 0x40, some 0x60, some 0xD0, some 0x20] := by decide

/-! ### Witnesses: a state and operands that meet an obligation's hypotheses, for each clause -/

/-- A read of code 0x3 as the host presents it. -/
def presented (rd : Bool) : Transaction :=
  { access := if rd then .read else .write 0x11, offset := 0x3C9, sel2 := false, sel3 := true }

/-- TransactionWordLayout: numbers below 65536 on both sides of 0x2000. -/
theorem witness_transactionWordLayout :
    (0x1FFF < 65536 ∧ (decodeTableWord 16 0x1FFF).isSome = true) ∧
      (0x2000 < 65536 ∧ (decodeTableWord 16 0x2000).isSome = false) := by decide

/-- StepRunsPresentedTransaction. -/
theorem witness_stepRunsPresentedTransaction :
    (withInputs State.reset [.transaction (presented false)]).inputs = .transaction (presented false) :: [] := rfl

/-- StepTakesHostChanges: a change outside the width, one inside it at the boundary, another table, and no input. -/
theorem witness_stepTakesHostChanges :
    (let s := withInputs (mk .v0 0 0) [.sets { resetHostInit with addr := 0x100 }]
     s.inputs = .sets { resetHostInit with addr := 0x100 } :: [] ∧ s.variant = .v0 ∧ 256 ≤ (0x100#10).toNat) ∧
      (let s := withInputs (mk .v0 0 0) [.sets { resetHostInit with addr := 0x0FF }]
       s.inputs = .sets { resetHostInit with addr := 0x0FF } :: [] ∧ ¬ 256 ≤ (0x0FF#10).toNat) ∧
      (withInputs (mk .v0 0 0) [.table 1]).inputs = .table 1 :: [] ∧ State.reset.inputs = [] := by decide

/-- ThreeWritesLoadOneEntry. -/
theorem witness_threeWritesLoadOneEntry : (mk .v0 0 0).phase = .p0 := rfl

/-- OnlyCode5ChangesThePhase: a write and a read at code 0x5 that change the phase. -/
theorem witness_onlyCode5ChangesThePhase :
    (∃ t, step (withInputs State.reset [.transaction (presented false)]) = .next t ∧ t.phase ≠ State.reset.phase) ∧
      ∃ t, step (withInputs (thirdByte true 0 1 2) [.transaction (presented true)]) = .next t ∧
        t.phase ≠ (thirdByte true 0 1 2).phase :=
  ⟨⟨_, rfl, by decide⟩, ⟨_, rfl, by decide⟩⟩

/-- OnlyTheThirdByteChangesAnEntry. -/
theorem witness_onlyTheThirdByteChangesAnEntry :
    ∃ t, step (withInputs (thirdByte true 3 1 2) [.transaction (presented false)]) = .next t ∧
      t.extPal ≠ (thirdByte true 3 1 2).extPal := ⟨_, rfl, by decide⟩

/-- CommandRegistersHoldTheLastByteWritten: an instruction at none of the three codes meets all three hypotheses. -/
theorem witness_commandRegistersHold :
    (Instr.wrIdx 0xFF).code ≠ 0x6 ∧ (Instr.wrIdx 0xFF).code ≠ 0x8 ∧ (Instr.wrIdx 0xFF).code ≠ 0x9 := by decide

/-- SubRegisterReadBack: cr3 on V1 at sub-address 1, cr4 on V3 at sub-address 2. -/
theorem witness_subRegisterReadBack :
    ((mk .v1 0x80 0x301).variant ≠ .v0 ∧ (mk .v1 0x80 0x301).cr0.getLsbD 7 = true ∧
        (mk .v1 0x80 0x301).host.addr.toNat % 256 = 1) ∧
      ((mk .v3 0x80 0x102).variant ≠ .v0 ∧ (mk .v3 0x80 0x102).cr0.getLsbD 7 = true ∧
        (mk .v3 0x80 0x102).host.addr.toNat % 256 = 2 ∧ (mk .v3 0x80 0x102).variant = .v3) := by decide

/-- IndexedWrite and IndexedRead, where clauses meet: sub-addresses 0, 1, 2 and 3, 0x1F, 0x20, 0x22 and 0x23, cr0 0x7F and
0x80, V0 and V1. -/
theorem witness_indexed_clauses :
    [0x00, 0x01, 0x02, 0x03, 0x1F, 0x20, 0x22, 0x23].map (fun a => subRegisterRead { mk .v3 0x80 a with cr3 := 5, cr4 := 7 }) =
        [0x20, 0x05, 0x07, 0x20, 0x20, 0xFF, 0xFF, 0x20] ∧
      subRegisterRead { mk .v3 0x7F 0x01 with cr3 := 5 } = 0x20 ∧ subRegisterRead { mk .v1 0x80 0x01 with cr3 := 5 } = 0x05 ∧
      subRegisterRead { mk .v0 0x80 0x01 with cr3 := 5 } = 0x40 ∧
      [0x00, 0x01, 0x02, 0x03].map (fun a => ((does (.wrIdx 9) (mk .v3 0x80 a)).cr3, (does (.wrIdx 9) (mk .v3 0x80 a)).cr4)) =
        [(0, 0), (9, 0), (0, 9), (0, 0)] := by decide

/-- CursorRamWrite: both buffers, each canonical, at the last index of each. -/
theorem witness_cursorRamWrite :
    ((big .v1 0x3FF).variant ≠ .v0 ∧ (big .v1 0x3FF).host.curSize = .size64 ∧ (big .v1 0x3FF).cur64.wf = true) ∧
      (¬((big .v0 0xFF).variant ≠ .v0 ∧ (big .v0 0xFF).host.curSize = .size64) ∧ (big .v0 0xFF).cur32.wf = true) := by decide

/-- CursorWriteIsReadBack: with CUR64, the counter's top bits those of cr3; with CUR32, nothing to meet. -/
theorem witness_cursorWriteIsReadBack :
    (let s : State := { big .v1 0x3FF with cr3 := 3 }
     s.cur32.wf = true ∧ s.cur64.wf = true ∧ s.variant ≠ .v0 ∧ s.host.curSize = .size64 ∧
       s.host.addr.toNat / 256 = s.cr3.toNat % 4) ∧
      (let s : State := mk .v1 0 0x1FF
       s.cur32.wf = true ∧ s.cur64.wf = true ∧ s.host.curSize ≠ .size64) := by decide

/-- OnlyCursorRamWritesStore: an instruction that is no WR.CRAM, and a host change that steps. -/
theorem witness_onlyCursorRamWritesStore :
    (∀ d, Instr.rdCram ≠ .wrCram d) ∧
      ∃ t, (∀ x rest, (withInputs State.reset [.sets resetHostInit]).inputs ≠ .transaction x :: rest) ∧
        step (withInputs State.reset [.sets resetHostInit]) = .next t := ⟨nofun, _, nofun, rfl⟩

/-- BufferReadAfterWrite, at the last index. -/
theorem witness_bufferReadAfterWrite :
    Memory.wf [(3, 5), (0xFF, 7)] = true ∧ Memory.within 256 [(3, 5), (0xFF, 7)] = true ∧ 0xFF < 256 := by decide

/-- CanonicalBuffersAreExtensional: two buffers made by writes in different orders. -/
theorem witness_canonicalBuffers :
    (writeByte (writeByte [] 3 5) 9 7).wf = true ∧ (writeByte (writeByte [] 9 7) 3 5).wf = true ∧
      ∀ a, readByte (writeByte (writeByte [] 3 5) 9 7) a = readByte (writeByte (writeByte [] 9 7) 3 5) a :=
  ⟨by decide, by decide, fun _ => rfl⟩

/-- DisplayedPositionIsCounterMinusSize: a cr3 write changes both axes, a counter write one. -/
theorem witness_displayedPosition :
    (delegated (.wrIdx 4) = false ∧ ∃ t, exec (.wrIdx 4) (mk .v1 0x80 1) = .next t ∧
        t.host.curX ≠ (mk .v1 0x80 1).host.curX ∧ t.host.curY ≠ (mk .v1 0x80 1).host.curY) ∧
      (delegated (.wrCxl 0xFF) = false ∧ ∃ t, exec (.wrCxl 0xFF) (counters 0 0xFF) = .next t ∧
        t.host.curX ≠ (counters 0 0xFF).host.curX) ∧
      (delegated (.wrCyh 0xFF) = false ∧ ∃ t, exec (.wrCyh 0xFF) (counters 0 0xFF) = .next t ∧
        t.host.curY ≠ (counters 0 0xFF).host.curY) :=
  ⟨⟨by decide, _, rfl, by decide, by decide⟩, ⟨by decide, _, rfl, by decide⟩, ⟨by decide, _, rfl, by decide⟩⟩

/-- RecalculationSources: each clause of the condition, and neither. -/
theorem witness_recalculationSources :
    (∃ t, exec (.wrEpd 0x30) (thirdByte true 4 1 2) = .next t ∧ t.events = [.recalc]) ∧
      (∃ t, exec (.wrCr1 0) State.reset = .next t ∧ t.events = [.recalc]) ∧
      (∃ t, exec (.wrCr2 0) State.reset = .next t ∧ t.events = [.recalc]) ∧
      (∃ t, exec (.wrIdx 0) (mk .v1 0x80 0x101) = .next t ∧ t.events = [.recalc]) ∧
      ∃ t, exec (.wrIdx 0) (mk .v0 0x80 0x01) = .next t ∧ t.events = [] :=
  ⟨⟨_, rfl, by decide⟩, ⟨_, rfl, by decide⟩, ⟨_, rfl, by decide⟩, ⟨_, rfl, by decide⟩, ⟨_, rfl, by decide⟩⟩

/-- PlainReadsAreIdempotent. -/
theorem witness_plainReads : Instr.rdIdx.isRead = true ∧ Instr.rdIdx.code ∉ [0x0, 0x1, 0x2, 0x5, 0xB] := by decide

/-- CoreOwnedFieldWriters: each core-owned field changes somewhere. -/
theorem witness_coreOwnedFieldWriters :
    (does (.wrCr0 1) (mk .v3 0x80 1)).cr0 ≠ 0x80 ∧ (does (.wrCr1 1) (mk .v3 0x80 1)).cr1 ≠ 0 ∧
      (does (.wrCr2 1) (mk .v3 0x80 1)).cr2 ≠ 0 ∧ (does (.wrIdx 1) (mk .v3 0x80 1)).cr3 ≠ 0 ∧
      (does (.wrIdx 1) (mk .v3 0x80 2)).cr4 ≠ 0 ∧ (does .rdEpd (mk .v3 0x80 1)).extAddr ≠ 0 ∧
      (does (.wrEpd 1) (mk .v3 0x80 1)).stR ≠ 0 ∧ (does (.wrEpd 1) { mk .v3 0x80 1 with phase := .p1 }).stG ≠ 0 ∧
      (does (.wrCram 1) (mk .v0 0 1)).cur32 ≠ [] ∧ (does (.wrCram 1) (big .v1 1)).cur64 ≠ [] ∧
      (does (.wrCxl 1) (counters 0 0)).curXcnt ≠ 0 ∧ (does (.wrCyh 1) (counters 0 0)).curYcnt ≠ 0 ∧
      (does .rdPmask (mk .v0 0 0)).hostCalls ≠ 0 ∧
      (does .rdEpd (thirdByte true 3 1 1)).phase ≠ .p2 ∧ (does (.wrEpd 1) (thirdByte true 3 1 1)).extAddr ≠ 3 ∧
      palEntry (does (.wrEpd 1) (thirdByte true 3 1 1)) 3 ≠ palEntry (thirdByte true 3 1 1) 3 := by decide

/-- HostSharedFieldWriters: each host-shared field the block writes changes somewhere. -/
theorem witness_hostSharedFieldWriters :
    delegated .rdCram = false ∧ (does .rdCram (mk .v3 0x80 1)).host.addr ≠ 1 ∧
      (does (.wrEpwi 0) { mk .v0 0 0 with host := { resetHostInit with pos := 7 } }).host.pos ≠ 7 ∧
      (does (.wrEpri 0) (mk .v0 0 0)).host.status ≠ 0 ∧ (does (.wrCr0 2) (mk .v0 0 0)).host.prec8 ≠ false ∧
      (does (.wrCr2 0x20) (mk .v0 0 0)).host.bpp ≠ .bpp8 ∧ (does (.wrCr2 3) (mk .v0 0 0)).host.curEnable ≠ false ∧
      (does (.wrIdx 4) (mk .v1 0x80 1)).host.curSize ≠ .size32 ∧ (does (.wrIdx 4) (mk .v1 0x80 1)).host.curYOff ≠ .off32 ∧
      (does (.wrIdx 4) (mk .v1 0x80 1)).host.addr ≠ (does (.wrIdx 5) (mk .v1 0x80 1)).host.addr ∧
      (does (.wrIdx 4) (mk .v1 0x80 1)).host.curX ≠ 0 ∧ (does (.wrCyl 4) (mk .v1 0x80 1)).host.curY ≠ 0 ∧
      (does (.wrEpd 1) (thirdByte true 0 1 1)).host.overscan ≠ 0 := by decide

/-- HiddenStateCannotBeRead: another palette with the same blue bytes. -/
theorem witness_hiddenState :
    Instr.rdEpd.isRead = true ∧
      ∀ j : BitVec 2,
        ((Vector.replicate 4 { r := 1, g := 2, b := 0, packed := 3 } : Vector PalEntry 4)[j.toNat]'j.isLt).b =
          (palEntry State.reset j).b := by decide

/-- TierIsFixedAtInstantiation: a step, and in the model's numbering (log 26) the last tier and a number that is none. -/
theorem witness_tierIsFixedAtInstantiation :
    (∃ t, step State.reset = .next t) ∧ variantOfNat 3 = some .v3 ∧ ∀ v : Variant, variantOfNat 4 ≠ some v :=
  ⟨⟨_, rfl⟩, rfl, nofun⟩

/-- InstantiationState: the first number that is no tier, and a host whose position flag is 0. -/
theorem witness_instantiationState : isTier 4 = false ∧ resetSetup.hostInit.pos = 0 := by decide

/-- InvariantHoldsAtReset: a HOST_INIT that keeps the host's duty on V0. -/
theorem witness_invariantHoldsAtReset :
    hostDuty .v0 { resetSetup with hostInit := { resetHostInit with addr := 0xFF } }.hostInit = true := by decide

/-- StepKeepsTheInvariant: a state with the invariant, not a reset one, and its step. -/
theorem witness_stepKeepsTheInvariant :
    ∃ t, (withInputs (counters 0x12 0x34) [.transaction (presented false)]).Inv ∧
      step (withInputs (counters 0x12 0x34) [.transaction (presented false)]) = .next t ∧ t.phase = .p1 :=
  ⟨_, by decide, rfl, by decide⟩

/-- RunsNeverStop: a host that keeps its duty, with a transaction and a change at the boundary of the width. -/
theorem witness_runsNeverStop :
    (withInputs (mk .v0 0 0) [.transaction (presented false), .sets { resetHostInit with addr := 0xFF },
      .table 1]).HostKeepsDuty := by
  decide

/-- InstancesShareNothing: the last of two instances steps. -/
theorem witness_instancesShareNothing :
    ∃ t, [mk .v0 0 0, withInputs (mk .v1 0 0) [.transaction (presented false)]][1]? =
        some (withInputs (mk .v1 0 0) [.transaction (presented false)]) ∧
      step (withInputs (mk .v1 0 0) [.transaction (presented false)]) = .next t ∧ t.phase = .p1 :=
  ⟨_, rfl, rfl, by decide⟩

end Sys2Proof.Tests
end

/-! The tier through a step (R4) and at construction from a raw number (R222): settles O47. -/

namespace Sys2Proof.Machine

open Sys2Proof

/-! ### What a step can do -/

/-- A step that answers a next state did nothing, ran the next transaction, or took one change by the host (R44, R230,
R235, R261). -/
theorem step_cases {s t : State} (h : step s = .next t) :
    (s.inputs = [] ∧ t = s) ∨
    (∃ x rest, s.inputs = .transaction x :: rest ∧ exec (decodeTxn x) { s with inputs := rest } = .next t) ∨
    (∃ g rest, s.inputs = .sets g :: rest ∧ hostDuty s.variant g = true ∧ t = { s with inputs := rest, host := g }) ∨
    (∃ n rest, s.inputs = .table n :: rest ∧ t = { s with inputs := rest, e6Table := n }) := by
  unfold step at h
  split at h
  next hin => exact .inl ⟨hin, (Host.Outcome.next.inj h).symm⟩
  next x rest hin => exact .inr (.inl ⟨x, rest, hin, h⟩)
  next g rest hin =>
    split at h
    next hduty => exact .inr (.inr (.inl ⟨g, rest, hin, hduty, (Host.Outcome.next.inj h).symm⟩))
    next => cases h
  next n rest hin => exact .inr (.inr (.inr ⟨n, rest, hin, (Host.Outcome.next.inj h).symm⟩))

/-! ### The tier through a transaction (R4) -/

@[simp] theorem storeCursor_variant (s : State) (p : CursorBuffer × Nat) (d : Byte) :
    (storeCursor s p d).variant = s.variant := by
  rw [storeCursor_eq]

@[simp] theorem completeEntry_variant (d : Byte) (s : State) : (completeEntry d s).variant = s.variant := by
  rw [completeEntry_eq]

@[simp] theorem writeCr3_variant (d : Byte) (s : State) : (writeCr3 d s).variant = s.variant := by
  rw [writeCr3_eq]

/-- Every transaction's meaning unfolds to `.next` of its result (R220): the tier is kept if that result keeps it. -/
theorem variant_of_next {s t u : State} (h : (.next u : Host.Outcome State Fault Refusal) = .next t)
    (hu : u.variant = s.variant) : t.variant = s.variant := by
  rw [← Host.Outcome.next.inj h, hu]

theorem execWrEpd_keeps_variant {d : Byte} {s t : State} (h : execWrEpd d s = .next t) : t.variant = s.variant := by
  refine variant_of_next h ?_
  dsimp only
  split
  · rfl
  · rfl
  · rw [completeEntry_variant, withHost_variant, beginTransaction_variant]

theorem execWrIdx_keeps_variant {d : Byte} {s t : State} (h : execWrIdx d s = .next t) : t.variant = s.variant := by
  rw [execWrIdx_eq] at h
  refine variant_of_next h ?_
  split
  · rw [writeCr3_variant, beginTransaction_variant]
  · split <;> rfl

theorem execWrCram_keeps_variant {d : Byte} {s t : State} (h : execWrCram d s = .next t) : t.variant = s.variant :=
  variant_of_next h (by rw [incAddr_variant, storeCursor_variant, beginTransaction_variant])

/-- The write rules of codes 0x5, 0xA and 0xB branch on the state; every other rule is a record update beside the tier. -/
theorem exec_keeps_variant {i : Instr} {s t : State} (h : exec i s = .next t) : t.variant = s.variant := by
  cases i with
  | wrEpd d => exact execWrEpd_keeps_variant h
  | wrIdx d => exact execWrIdx_keeps_variant h
  | wrCram d => exact execWrCram_keeps_variant h
  | wrPwi | wrPd | wrPmask | wrPri | wrEpwi | wrCr0 | wrEpri | wrCr1 | wrCr2 | wrCxl | wrCxh | wrCyl | wrCyh
  | rdPwi | rdPd | rdPmask | rdPri | rdEpwi | rdEpd | rdCr0 | rdEpri | rdCr1 | rdCr2 | rdIdx | rdCram | rdCxl | rdCxh
  | rdCyl | rdCyh => exact variant_of_next h rfl

theorem step_keeps_variant {s t : State} (h : step s = .next t) : t.variant = s.variant := by
  obtain ⟨-, rfl⟩ | ⟨x, rest, -, hexec⟩ | ⟨g, rest, -, -, rfl⟩ | ⟨n, rest, -, rfl⟩ := step_cases h
  · rfl
  · exact exec_keeps_variant (s := { s with inputs := rest }) hexec
  · rfl
  · rfl

/-! ### Construction from a raw number (R222) -/

/-- The raw number of a tier (the model's choice, log 26). -/
def Variant.number : Variant → Nat
  | .v0 => 0
  | .v1 => 1
  | .v2 => 2
  | .v3 => 3

/-- `Variant.number` is the numbering that construction reads. -/
theorem variantOfNat_eq_some_iff {n : Nat} {v : Variant} : variantOfNat n = some v ↔ v.number = n := by
  constructor
  · intro h
    unfold variantOfNat at h
    split at h <;> cases h <;> rfl
  · rintro rfl
    cases v <;> rfl

theorem Variant.number_injective : Function.Injective Variant.number := fun _ _ h =>
  Option.some.inj ((variantOfNat_eq_some_iff.mpr h).symm.trans (variantOfNat_eq_some_iff.mpr rfl))

theorem instantiateRaw_number (v : Variant) (setup : HostSetup) :
    instantiateRaw v.number setup = .next (State.instantiate v setup) := by
  rw [instantiateRaw, variantOfNat_eq_some_iff.mpr rfl]

theorem instantiateRaw_of_none {n : Nat} (h : variantOfNat n = none) (setup : HostSetup) :
    instantiateRaw n setup = .refused (.unrecognizedVariant n) := by
  rw [instantiateRaw, h]

/-- Settles O47: every arm of a step keeps the tier, and `Variant.number` is the numbering. -/
theorem tierIsFixedAtInstantiation : Obligations.TierIsFixedAtInstantiation := by
  refine ⟨fun _ _ => step_keeps_variant, Variant.number, Variant.number_injective, fun setup =>
    ⟨fun v => instantiateRaw_number v setup, fun n hn => instantiateRaw_of_none ?_ setup⟩⟩
  exact Option.eq_none_iff_forall_ne_some.mpr fun v hv => hn v (variantOfNat_eq_some_iff.mp hv)

end Sys2Proof.Machine

/-! What a transaction can do to the state, said once: the inversion of `exec` that the claims about writers, frames and
the invariant rest on. -/

namespace Sys2Proof.Machine

open Sys2Proof

/-! ### The effect of a transaction -/

/-- What a completed transaction can leave: every field that differs from `s` is written out, with the condition under
which the spec allows the change. The rules that end in the same kind of change share a constructor. -/
inductive Effect (s : State) : Instr → State → Prop
  /-- Codes 0x0 to 0x2: whatever host-shared fields the host leaves, its counter within the width (R109, R230). -/
  | hostCall {i : Instr} {h : HostShared} {rd : Option Byte} (hi : delegated i = true)
      (hduty : hostDuty s.variant h = true) :
      Effect s i { s with events := [], readData := rd, host := h, hostCalls := s.hostCalls + 1 }
  /-- WR.PRI (R123). -/
  | wrPri (d : Byte) : Effect s (.wrPri d) { s with
      events := [], readData := none
      host := { s.host with
        pos := 0, status := 3, addr := nextAddr s.variant (orCr3Bits s.variant s.cr3 (d.setWidth 10)) } }
  /-- WR.EPWI (R124). -/
  | wrEpwi (d : Byte) : Effect s (.wrEpwi d) { s with
      events := [], readData := none, extAddr := extAddrOperand 0x4 d, host := { s.host with pos := 0, status := 0 } }
  /-- WR.EPRI (R130). -/
  | wrEpri (d : Byte) : Effect s (.wrEpri d) { s with
      events := [], readData := none, extAddr := extAddrOperand 0x7 d, host := { s.host with pos := 0, status := 3 } }
  /-- WR.EPD at phase 0 (R125). -/
  | redByte (d : Byte) (hp : s.phase = .p0) : Effect s (.wrEpd d) { s with
      events := [], readData := none, host := { s.host with status := 0 }, stR := d, phase := .p1 }
  /-- WR.EPD at phase 1 (R125). -/
  | greenByte (d : Byte) (hp : s.phase = .p1) : Effect s (.wrEpd d) { s with
      events := [], readData := none, host := { s.host with status := 0 }, stG := d, phase := .p2 }
  /-- WR.EPD at phase 2: entry `extAddr mod 4`, and the overscan colour under R126's condition. -/
  | blueByte {d : Byte} {e : PalEntry} {c : BitVec 32} {ev : List Event} {a : Byte} (hp : s.phase = .p2)
      (hc : c ≠ s.host.overscan → s.extAddr.toNat % 4 = 0 ∧ s.host.ovEn = true) (hev : ev.length ≤ 1) :
      Effect s (.wrEpd d) { s with
        events := ev, readData := none, host := { s.host with status := 0, overscan := c }
        extPal := s.extPal.setIfInBounds (s.extAddr.toNat % 4) e, extAddr := a, phase := .p0 }
  /-- WR.CR0 (R129). -/
  | wrCr0 (d : Byte) : Effect s (.wrCr0 d) { s with
      events := [], readData := none, cr0 := d, host := { s.host with prec8 := d.getLsbD 1 } }
  /-- WR.CR1 (R131). -/
  | wrCr1 (d : Byte) : Effect s (.wrCr1 d) { s with
      events := [.recalc], readData := none, cr1 := d, host := { s.host with bpp := resolveDepth d s.cr2 } }
  /-- WR.CR2 (R132). -/
  | wrCr2 (d : Byte) : Effect s (.wrCr2 d) { s with
      events := [.recalc], readData := none, cr2 := d
      host := { s.host with curEnable := d &&& 0x3#8 != 0#8, bpp := resolveDepth s.cr1 d } }
  /-- WR.IDX at sub-address 1 with the gate open (R134). -/
  | cr3Write (d : Byte) (hw : isCr3Write (.wrIdx d) s) : Effect s (.wrIdx d) { s with
      events := [.recalc], readData := none, cr3 := d
      host := { s.host with
        curSize := cr3CursorSize d, curYOff := yOffFor (cr3CursorSize d)
        curX := displayed s.curXcnt (cr3CursorSize d), curY := displayed s.curYcnt (cr3CursorSize d)
        addr := replaceHighBits s.host.addr d } }
  /-- WR.IDX at sub-address 2 with the gate open, on V3 (R135). -/
  | cr4Write (d : Byte) (hw : 128 ≤ s.cr0.toNat ∧ s.host.addr.toNat % 256 = 2 ∧ s.variant = .v3) :
      Effect s (.wrIdx d) { s with events := [], readData := none, cr4 := d }
  /-- WR.IDX in every other case (R136). -/
  | ignoredWrite (d : Byte) : Effect s (.wrIdx d) { s with events := [], readData := none }
  /-- WR.CRAM where the 64-pixel cursor is not selected (R105, R137). -/
  | storeCur32 (d : Byte) (hb : ¬(s.variant ≠ .v0 ∧ s.host.curSize = .size64)) : Effect s (.wrCram d) { s with
      events := [], readData := none, cur32 := writeByte s.cur32 (s.host.addr.toNat % 256) d
      host := { s.host with addr := nextAddr s.variant s.host.addr } }
  /-- WR.CRAM where the 64-pixel cursor is selected (R105, R137). -/
  | storeCur64 (d : Byte) (hb : s.variant ≠ .v0 ∧ s.host.curSize = .size64) : Effect s (.wrCram d) { s with
      events := [], readData := none, cur64 := writeByte s.cur64 s.host.addr.toNat d
      host := { s.host with addr := nextAddr s.variant s.host.addr } }
  /-- Codes 0xC and 0xD written (R138, R139). -/
  | counterX {i : Instr} {c : BitVec 12} (hi : place i ∈ [(false, 0xC), (false, 0xD)]) : Effect s i { s with
      events := [], readData := none, curXcnt := c, host := { s.host with curX := displayed c s.host.curSize } }
  /-- Codes 0xE and 0xF written (R140, R141). -/
  | counterY {i : Instr} {c : BitVec 12} (hi : place i ∈ [(false, 0xE), (false, 0xF)]) : Effect s i { s with
      events := [], readData := none, curYcnt := c, host := { s.host with curY := displayed c s.host.curSize } }
  /-- A read that delivers a byte and leaves the rest (R69). -/
  | plainRead {i : Instr} {b : Byte} (hi : i.isRead = true) :
      Effect s i { s with events := [], readData := some b }
  /-- RD.EPD (R165). -/
  | rdEpd {b : Byte} : Effect s .rdEpd { s with
      events := [], readData := some b, phase := .p0, extAddr := s.extAddr + 1#8 }
  /-- RD.CRAM (R176). -/
  | rdCram {b : Byte} : Effect s .rdCram { s with
      events := [], readData := some b, host := { s.host with addr := nextAddr s.variant s.host.addr } }

/-! ### Every transaction completes with such an effect -/

/-- The duty on the width speaks of the counter alone (R230, D23). -/
theorem hostDuty_of_masked {v : Variant} {h : HostShared} {a : BitVec 10} (ha : h.addr = a &&& amask v) :
    hostDuty v h = true := by
  have hm := hostDuty_masked v h a
  rwa [← ha] at hm

/-- The union with cr3's bits keeps the width: V0 has no such bits (R120). -/
theorem hostDuty_orCr3Bits {v : Variant} {h : HostShared} (c : Byte) (hd : hostDuty v h = true) :
    hostDuty v { h with addr := orCr3Bits v c h.addr } = true := by
  rw [hostDuty_iff] at hd ⊢
  intro hv
  subst hv
  exact hd rfl

theorem hostDuty_keepWidth (v : Variant) (h : HostShared) : hostDuty v (keepWidth v h) = true :=
  hostDuty_of_masked (keepWidth_addr v h)

theorem execWrEpd_effect (d : Byte) (s : State) : ∃ t, exec (.wrEpd d) s = .next t ∧ Effect s (.wrEpd d) t := by
  refine ⟨_, rfl, ?_⟩
  dsimp only
  split
  next hp => exact .redByte d hp
  next hp => exact .greenByte d hp
  next hp =>
    rw [completeEntry_eq]
    refine .blueByte hp (fun hc => ?_) ?_
    · by_contra hno
      exact hc (if_neg hno)
    · split <;> simp

theorem execWrIdx_effect (d : Byte) (s : State) : ∃ t, exec (.wrIdx d) s = .next t ∧ Effect s (.wrIdx d) t := by
  refine ⟨_, execWrIdx_eq d s, ?_⟩
  simp only [subRegGate_iff, subAddress_eq_iff, hasCr4_iff]
  split
  next h =>
    rw [writeCr3_eq]
    exact .cr3Write d ⟨rfl, h⟩
  next =>
    split
    next h => exact .cr4Write d ⟨h.1.2, h.2⟩
    next => exact .ignoredWrite d

theorem execWrCram_effect (d : Byte) (s : State) : ∃ t, exec (.wrCram d) s = .next t ∧ Effect s (.wrCram d) t := by
  refine ⟨_, rfl, ?_⟩
  dsimp only
  rw [cursorSelect_eq, storeCursor_eq, toNat_cursorWriteIndex]
  split
  next hb => exact .storeCur64 d hb
  next hb => exact .storeCur32 d hb

/-- Every transaction completes (R220), and what it leaves is one of the effects. -/
theorem exec_effect (i : Instr) (s : State) : ∃ t, exec i s = .next t ∧ Effect s i t := by
  cases i with
  | wrPwi d => exact ⟨_, rfl, .hostCall rfl (hostDuty_orCr3Bits s.cr3 (hostDuty_keepWidth _ _))⟩
  | wrPd | wrPmask | rdPwi | rdPd | rdPmask => exact ⟨_, rfl, .hostCall rfl (hostDuty_keepWidth _ _)⟩
  | wrPri d => exact ⟨_, rfl, .wrPri d⟩
  | wrEpwi d => exact ⟨_, rfl, .wrEpwi d⟩
  | wrEpd d => exact execWrEpd_effect d s
  | wrCr0 d => exact ⟨_, rfl, .wrCr0 d⟩
  | wrEpri d => exact ⟨_, rfl, .wrEpri d⟩
  | wrCr1 d => exact ⟨_, rfl, .wrCr1 d⟩
  | wrCr2 d => exact ⟨_, rfl, .wrCr2 d⟩
  | wrIdx d => exact execWrIdx_effect d s
  | wrCram d => exact execWrCram_effect d s
  | wrCxl => exact ⟨_, rfl, .counterX (.head _)⟩
  | wrCxh => exact ⟨_, rfl, .counterX (.tail _ (.head _))⟩
  | wrCyl => exact ⟨_, rfl, .counterY (.head _)⟩
  | wrCyh => exact ⟨_, rfl, .counterY (.tail _ (.head _))⟩
  | rdEpd => exact ⟨_, rfl, .rdEpd⟩
  | rdCram => exact ⟨_, rfl, .rdCram⟩
  | rdPri | rdEpwi | rdCr0 | rdEpri | rdCr1 | rdCr2 | rdIdx | rdCxl | rdCxh | rdCyl | rdCyh =>
    exact ⟨_, rfl, .plainRead rfl⟩

theorem effect_of_exec {i : Instr} {s t : State} (h : exec i s = .next t) : Effect s i t := by
  obtain ⟨u, hu, heff⟩ := exec_effect i s
  rw [← Host.Outcome.next.inj (hu.symm.trans h)]
  exact heff

end Sys2Proof.Machine

/-! Which transactions change each core-owned field (R21 to R31): settles O44, O21 and O35. -/

namespace Sys2Proof.Machine

open Sys2Proof

namespace Effect

variable {i : Instr} {s t : State}

theorem variant_eq (h : Effect s i t) : t.variant = s.variant := by
  cases h <;> rfl

theorem cr0_writer (h : Effect s i t) (hne : t.cr0 ≠ s.cr0) : place i = (false, 0x6) := by
  cases h with
  | wrCr0 => rfl
  | _ => exact absurd rfl hne

theorem cr1_writer (h : Effect s i t) (hne : t.cr1 ≠ s.cr1) : place i = (false, 0x8) := by
  cases h with
  | wrCr1 => rfl
  | _ => exact absurd rfl hne

theorem cr2_writer (h : Effect s i t) (hne : t.cr2 ≠ s.cr2) : place i = (false, 0x9) := by
  cases h with
  | wrCr2 => rfl
  | _ => exact absurd rfl hne

theorem cr3_writer (h : Effect s i t) (hne : t.cr3 ≠ s.cr3) : isCr3Write i s := by
  cases h with
  | cr3Write _ hw => exact hw
  | _ => exact absurd rfl hne

theorem cr4_writer (h : Effect s i t) (hne : t.cr4 ≠ s.cr4) :
    place i = (false, 0xA) ∧ 128 ≤ s.cr0.toNat ∧ s.host.addr.toNat % 256 = 2 ∧ s.variant = .v3 := by
  cases h with
  | cr4Write _ hw => exact ⟨rfl, hw⟩
  | _ => exact absurd rfl hne

theorem extAddr_writers (h : Effect s i t) (hne : t.extAddr ≠ s.extAddr) :
    place i ∈ [(false, 0x4), (false, 0x7), (true, 0x5)] ∨ isThirdByte i s := by
  cases h with
  | wrEpwi => exact .inl (.head _)
  | wrEpri => exact .inl (.tail _ (.head _))
  | rdEpd => exact .inl (.tail _ (.tail _ (.head _)))
  | blueByte hp => exact .inr ⟨rfl, hp⟩
  | _ => exact absurd rfl hne

theorem phase_writers (h : Effect s i t) (hne : t.phase ≠ s.phase) :
    place i = (false, 0x5) ∨ place i = (true, 0x5) ∧ s.phase ≠ .p0 := by
  cases h with
  | redByte | greenByte | blueByte => exact .inl rfl
  | rdEpd => exact .inr ⟨rfl, hne.symm⟩
  | _ => exact absurd rfl hne

theorem stR_writer (h : Effect s i t) (hne : t.stR ≠ s.stR) : place i = (false, 0x5) ∧ s.phase = .p0 := by
  cases h with
  | redByte _ hp => exact ⟨rfl, hp⟩
  | _ => exact absurd rfl hne

theorem stG_writer (h : Effect s i t) (hne : t.stG ≠ s.stG) : place i = (false, 0x5) ∧ s.phase = .p1 := by
  cases h with
  | greenByte _ hp => exact ⟨rfl, hp⟩
  | _ => exact absurd rfl hne

/-- The palette has one writer, the third byte (R29, R125), and it replaces one entry. -/
theorem extPal_writer (h : Effect s i t) (hne : t.extPal ≠ s.extPal) :
    (∃ d, i = .wrEpd d) ∧ s.phase = .p2 ∧
      ∃ e, t.extPal = s.extPal.setIfInBounds (s.extAddr.toNat % 4) e := by
  cases h with
  | blueByte hp => exact ⟨⟨_, rfl⟩, hp, _, rfl⟩
  | _ => exact absurd rfl hne

/-- The third byte leaves every entry but `extAddr mod 4` (R29). -/
theorem palEntry_eq (h : Effect s i t) {j : BitVec 2} (hj : j.toNat ≠ s.extAddr.toNat % 4) :
    palEntry t j = palEntry s j := by
  by_cases hpal : t.extPal = s.extPal
  · exact palEntry_congr hpal j
  · obtain ⟨-, -, e, he⟩ := h.extPal_writer hpal
    simp only [palEntry, he, Vector.getElem_setIfInBounds, if_neg hj.symm]

theorem palEntry_writer (h : Effect s i t) {j : BitVec 2} (hne : palEntry t j ≠ palEntry s j) :
    isThirdByte i s ∧ j.toNat = s.extAddr.toNat % 4 := by
  obtain ⟨⟨d, rfl⟩, hp, -⟩ := h.extPal_writer fun hpal => hne (palEntry_congr hpal j)
  exact ⟨⟨rfl, hp⟩, by_contra fun hj => hne (h.palEntry_eq hj)⟩

theorem cur32_writer (h : Effect s i t) (hne : t.cur32 ≠ s.cur32) :
    place i = (false, 0xB) ∧ ¬(s.variant ≠ .v0 ∧ s.host.curSize = .size64) := by
  cases h with
  | storeCur32 _ hb => exact ⟨rfl, hb⟩
  | _ => exact absurd rfl hne

theorem cur64_writer (h : Effect s i t) (hne : t.cur64 ≠ s.cur64) :
    place i = (false, 0xB) ∧ s.variant ≠ .v0 ∧ s.host.curSize = .size64 := by
  cases h with
  | storeCur64 _ hb => exact ⟨rfl, hb⟩
  | _ => exact absurd rfl hne

theorem curXcnt_writers (h : Effect s i t) (hne : t.curXcnt ≠ s.curXcnt) :
    place i ∈ [(false, 0xC), (false, 0xD)] := by
  cases h with
  | counterX hi => exact hi
  | _ => exact absurd rfl hne

theorem curYcnt_writers (h : Effect s i t) (hne : t.curYcnt ≠ s.curYcnt) :
    place i ∈ [(false, 0xE), (false, 0xF)] := by
  cases h with
  | counterY hi => exact hi
  | _ => exact absurd rfl hne

theorem hostCalls_writers (h : Effect s i t) (hne : t.hostCalls ≠ s.hostCalls) : delegated i = true := by
  cases h with
  | hostCall hi => exact hi
  | _ => exact absurd rfl hne

theorem hostSide_eq (h : Effect s i t) :
    t.inputs = s.inputs ∧ t.hostId = s.hostId ∧ t.e6Table = s.e6Table := by
  cases h <;> exact ⟨rfl, rfl, rfl⟩

end Effect

/-- Settles O44: each conjunct is the writer lemma of its field. -/
theorem coreOwnedFieldWriters : Obligations.CoreOwnedFieldWriters := by
  intro i s t hexec
  have h := effect_of_exec hexec
  exact ⟨h.variant_eq, h.cr0_writer, h.cr1_writer, h.cr2_writer, h.cr3_writer, h.cr4_writer, h.extAddr_writers,
    h.phase_writers, h.stR_writer, h.stG_writer, fun _ => h.palEntry_writer, h.cur32_writer, h.cur64_writer,
    h.curXcnt_writers, h.curYcnt_writers, h.hostCalls_writers, h.hostSide_eq⟩

/-- Settles O21: a host change keeps the palette, so the step ran a transaction, and the palette has one writer. -/
theorem onlyTheThirdByteChangesAnEntry : Obligations.OnlyTheThirdByteChangesAnEntry := by
  intro s t hstep hne
  obtain ⟨-, rfl⟩ | ⟨x, rest, hin, hexec⟩ | ⟨g, rest, -, -, rfl⟩ | ⟨n, rest, -, rfl⟩ := step_cases hstep
  case inr.inl =>
    have h := effect_of_exec hexec
    obtain ⟨⟨d, hd⟩, hp, -⟩ := h.extPal_writer hne
    exact ⟨hp, ⟨x, rest, d, hin, hd⟩, fun _ => h.palEntry_eq⟩
  all_goals exact absurd rfl hne

/-- A code 0xB write is the one constructor WR.CRAM (R84). -/
theorem eq_wrCram_of_place {i : Instr} (h : place i = (false, 0xB)) : ∃ d, i = .wrCram d := by
  cases i with
  | wrCram d => exact ⟨d, rfl⟩
  | _ => simp [place, Instr.code, Instr.isRead, Instr.access] at h

theorem Effect.buffers_eq {i : Instr} {s t : State} (h : Effect s i t) (hi : ∀ d, i ≠ .wrCram d) :
    t.cur32 = s.cur32 ∧ t.cur64 = s.cur64 := by
  have hplace : place i ≠ (false, 0xB) := fun hp => by
    obtain ⟨d, rfl⟩ := eq_wrCram_of_place hp
    exact hi d rfl
  exact ⟨by_contra fun hne => hplace (h.cur32_writer hne).1, by_contra fun hne => hplace (h.cur64_writer hne).1⟩

/-- Settles O35: outside WR.CRAM both buffers are the same data, so every byte reads as before. -/
theorem onlyCursorRamWritesStore : Obligations.OnlyCursorRamWritesStore := by
  constructor
  · intro i s hi
    obtain ⟨t, ht, heff⟩ := exec_effect i s
    obtain ⟨h32, h64⟩ := heff.buffers_eq hi
    exact ⟨t, ht, fun a => ⟨by rw [h32], by rw [h64]⟩⟩
  · intro s t hin hstep a
    obtain ⟨-, rfl⟩ | ⟨x, rest, hx, -⟩ | ⟨g, rest, -, -, rfl⟩ | ⟨n, rest, -, rfl⟩ := step_cases hstep
    case inr.inl => exact absurd hx (hin x rest)
    all_goals exact ⟨rfl, rfl⟩

end Sys2Proof.Machine

/-! Which transactions at codes 0x3 and above change each host-shared field (R32 to R40), and to which displayed
position: settles O45 and O40. -/

namespace Sys2Proof.Machine

open Sys2Proof

namespace Effect

variable {i : Instr} {s t : State}

theorem addr_writers (h : Effect s i t) (hd : ¬delegated i = true) (hne : t.host.addr ≠ s.host.addr) :
    place i ∈ [(false, 0x3), (false, 0xB), (true, 0xB)] ∨ isCr3Write i s := by
  cases h with
  | wrPri => exact .inl (.head _)
  | storeCur32 | storeCur64 => exact .inl (.tail _ (.head _))
  | rdCram => exact .inl (.tail _ (.tail _ (.head _)))
  | cr3Write _ hw => exact .inr hw
  | hostCall hi => exact absurd hi hd
  | _ => exact absurd rfl hne

theorem pos_writers (h : Effect s i t) (hd : ¬delegated i = true) (hne : t.host.pos ≠ s.host.pos) :
    place i ∈ [(false, 0x3), (false, 0x4), (false, 0x7)] ∧ t.host.pos = 0 := by
  cases h with
  | wrPri => exact ⟨.head _, rfl⟩
  | wrEpwi => exact ⟨.tail _ (.head _), rfl⟩
  | wrEpri => exact ⟨.tail _ (.tail _ (.head _)), rfl⟩
  | hostCall hi => exact absurd hi hd
  | _ => exact absurd rfl hne

theorem status_writers (h : Effect s i t) (hd : ¬delegated i = true) (hne : t.host.status ≠ s.host.status) :
    place i ∈ [(false, 0x3), (false, 0x7)] ∧ t.host.status = 3 ∨
      place i ∈ [(false, 0x4), (false, 0x5)] ∧ t.host.status = 0 := by
  cases h with
  | wrPri => exact .inl ⟨.head _, rfl⟩
  | wrEpri => exact .inl ⟨.tail _ (.head _), rfl⟩
  | wrEpwi => exact .inr ⟨.head _, rfl⟩
  | redByte | greenByte | blueByte => exact .inr ⟨.tail _ (.head _), rfl⟩
  | hostCall hi => exact absurd hi hd
  | _ => exact absurd rfl hne

theorem prec8_writer (h : Effect s i t) (hd : ¬delegated i = true) (hne : t.host.prec8 ≠ s.host.prec8) :
    place i = (false, 0x6) := by
  cases h with
  | wrCr0 => rfl
  | hostCall hi => exact absurd hi hd
  | _ => exact absurd rfl hne

theorem bpp_writers (h : Effect s i t) (hd : ¬delegated i = true) (hne : t.host.bpp ≠ s.host.bpp) :
    place i ∈ [(false, 0x8), (false, 0x9)] := by
  cases h with
  | wrCr1 => exact .head _
  | wrCr2 => exact .tail _ (.head _)
  | hostCall hi => exact absurd hi hd
  | _ => exact absurd rfl hne

theorem curEnable_writer (h : Effect s i t) (hd : ¬delegated i = true) (hne : t.host.curEnable ≠ s.host.curEnable) :
    place i = (false, 0x9) := by
  cases h with
  | wrCr2 => rfl
  | hostCall hi => exact absurd hi hd
  | _ => exact absurd rfl hne

theorem curSize_writer (h : Effect s i t) (hd : ¬delegated i = true) (hne : t.host.curSize ≠ s.host.curSize) :
    isCr3Write i s := by
  cases h with
  | cr3Write _ hw => exact hw
  | hostCall hi => exact absurd hi hd
  | _ => exact absurd rfl hne

theorem curYOff_writer (h : Effect s i t) (hd : ¬delegated i = true) (hne : t.host.curYOff ≠ s.host.curYOff) :
    isCr3Write i s := by
  cases h with
  | cr3Write _ hw => exact hw
  | hostCall hi => exact absurd hi hd
  | _ => exact absurd rfl hne

/-- A write of the X position comes from a cr3 or counter write and leaves counter minus size (R39, R107). -/
theorem curX_writers (h : Effect s i t) (hd : ¬delegated i = true) (hne : t.host.curX ≠ s.host.curX) :
    (isCr3Write i s ∨ place i ∈ [(false, 0xC), (false, 0xD)]) ∧
      t.host.curX = displayed t.curXcnt t.host.curSize := by
  cases h with
  | cr3Write _ hw => exact ⟨.inl hw, rfl⟩
  | counterX hi => exact ⟨.inr hi, rfl⟩
  | hostCall hi => exact absurd hi hd
  | _ => exact absurd rfl hne

/-- As `curX_writers`, for the Y position. -/
theorem curY_writers (h : Effect s i t) (hd : ¬delegated i = true) (hne : t.host.curY ≠ s.host.curY) :
    (isCr3Write i s ∨ place i ∈ [(false, 0xE), (false, 0xF)]) ∧
      t.host.curY = displayed t.curYcnt t.host.curSize := by
  cases h with
  | cr3Write _ hw => exact ⟨.inl hw, rfl⟩
  | counterY hi => exact ⟨.inr hi, rfl⟩
  | hostCall hi => exact absurd hi hd
  | _ => exact absurd rfl hne

theorem overscan_writer (h : Effect s i t) (hd : ¬delegated i = true) (hne : t.host.overscan ≠ s.host.overscan) :
    isThirdByte i s ∧ s.extAddr.toNat % 4 = 0 ∧ s.host.ovEn = true := by
  cases h with
  | blueByte hp hc => exact ⟨⟨rfl, hp⟩, hc hne⟩
  | hostCall hi => exact absurd hi hd
  | _ => exact absurd rfl hne

theorem ovEn_eq (h : Effect s i t) (hd : ¬delegated i = true) : t.host.ovEn = s.host.ovEn := by
  cases h with
  | hostCall hi => exact absurd hi hd
  | _ => rfl

end Effect

/-- Settles O45: each conjunct is the writer lemma of its field. -/
theorem hostSharedFieldWriters : Obligations.HostSharedFieldWriters := by
  intro i s t hi hexec
  have h := effect_of_exec hexec
  have hd : ¬delegated i = true := ne_true_of_eq_false hi
  exact ⟨h.addr_writers hd, h.pos_writers hd, h.status_writers hd, h.prec8_writer hd, h.bpp_writers hd,
    h.curEnable_writer hd, h.curSize_writer hd, h.curYOff_writer hd, fun hne => (h.curX_writers hd hne).1,
    fun hne => (h.curY_writers hd hne).1, h.overscan_writer hd, h.ovEn_eq hd⟩

/-- Settles O40: the value is `displayed` of the fields as they then stand, whose range `displayed_range` gives. -/
theorem displayedPositionIsCounterMinusSize : Obligations.DisplayedPositionIsCounterMinusSize := by
  intro i s t hi hexec
  have h := effect_of_exec hexec
  have hd : ¬delegated i = true := ne_true_of_eq_false hi
  constructor
  · intro hne
    obtain ⟨hwriter, hval⟩ := h.curX_writers hd hne
    exact ⟨hwriter, hval, hval ▸ displayed_range t.curXcnt t.host.curSize⟩
  · intro hne
    obtain ⟨hwriter, hval⟩ := h.curY_writers hd hne
    exact ⟨hwriter, hval, hval ▸ displayed_range t.curYcnt t.host.curSize⟩

end Sys2Proof.Machine

/-! The cursor buffers as data: a write keeps the canonical form (O36), and the form determines the data (O37). -/

namespace Sys2Proof.Machine

open Sys2Proof

/-- Settles O36: the laws of a write, for an index inside the buffer. -/
theorem bufferReadAfterWrite : Obligations.BufferReadAfterWrite := by
  intro m n a v hwf hin ha
  refine ⟨wf_writeByte a v hwf, within_writeByte a v ha hin, fun b => ?_⟩
  rw [readByte_writeByte_wf hwf]
  simp only [eq_comm]

theorem risingFrom_cons {lo a : Nat} {v : Byte} {m : Memory} :
    risingFrom lo ((a, v) :: m) = true ↔ lo ≤ a ∧ risingFrom (a + 1) m = true := by
  simp only [risingFrom, Bool.and_eq_true, decide_eq_true_eq]

theorem readByte_cons_self (a : Nat) (v : Byte) (m : Memory) : readByte ((a, v) :: m) a = v := by
  simp only [readByte, if_true]

/-- The index a rising list starts with is not below the first index of another that reads the same: a byte below all
listed ones reads as unlisted, and a listed byte does not. -/
theorem head_index_le {lo a b : Nat} {v w : Byte} {m m' : Memory} (hv : v ≠ unlistedByte)
    (hr : risingFrom lo ((b, w) :: m') = true) (heq : readByte ((a, v) :: m) a = readByte ((b, w) :: m') a) :
    b ≤ a := by
  by_contra hlt
  have hr' : risingFrom b ((b, w) :: m') = true := risingFrom_cons.mpr ⟨le_rfl, (risingFrom_cons.mp hr).2⟩
  rw [readByte_cons_self, readByte_of_lt (by omega) hr'] at heq
  exact hv heq

/-- Behind a common head the tails read the same: at the head's own index both, rising above it, read as unlisted. -/
theorem readByte_tail_eq {a : Nat} {v : Byte} {m m' : Memory} (hm : risingFrom (a + 1) m = true)
    (hm' : risingFrom (a + 1) m' = true) (heq : ∀ x, readByte ((a, v) :: m) x = readByte ((a, v) :: m') x) (x : Nat) :
    readByte m x = readByte m' x := by
  by_cases hx : a = x
  · rw [readByte_of_lt (by omega) hm, readByte_of_lt (by omega) hm']
  · simpa only [readByte, if_neg hx] using heq x

/-- Rising lists of listed bytes are determined by their reads. -/
theorem eq_of_readByte_eq {m m' : Memory} {lo : Nat} (hr : risingFrom lo m = true) (hr' : risingFrom lo m' = true)
    (hl : ∀ c ∈ m, c.2 ≠ unlistedByte) (hl' : ∀ c ∈ m', c.2 ≠ unlistedByte)
    (heq : ∀ a, readByte m a = readByte m' a) : m = m' := by
  induction m generalizing m' lo with
  | nil =>
    cases m' with
    | nil => rfl
    | cons c m' =>
      obtain ⟨b, w⟩ := c
      exact absurd ((heq b).trans (readByte_cons_self b w m')).symm (hl' _ List.mem_cons_self)
  | cons c m ih =>
    obtain ⟨a, v⟩ := c
    have hv : v ≠ unlistedByte := hl _ List.mem_cons_self
    cases m' with
    | nil => exact absurd ((readByte_cons_self a v m).symm.trans (heq a)) hv
    | cons c' m' =>
      obtain ⟨b, w⟩ := c'
      obtain rfl : a = b := le_antisymm
        (head_index_le (hl' _ List.mem_cons_self) hr (heq b).symm) (head_index_le hv hr' (heq a))
      obtain rfl : v = w := by simpa only [readByte_cons_self] using heq a
      have hm := (risingFrom_cons.mp hr).2
      have hm' := (risingFrom_cons.mp hr').2
      rw [ih hm hm' (fun c hc => hl c (List.mem_cons_of_mem _ hc)) (fun c hc => hl' c (List.mem_cons_of_mem _ hc))
        (readByte_tail_eq hm hm' heq)]

theorem wf_iff {m : Memory} : m.wf = true ↔ risingFrom 0 m = true ∧ ∀ c ∈ m, c.2 ≠ unlistedByte := by
  simp only [Memory.wf, Bool.and_eq_true, List.all_eq_true, bne_iff_ne]

/-- Settles O37: a canonical list is a rising list of listed bytes. -/
theorem canonicalBuffersAreExtensional : Obligations.CanonicalBuffersAreExtensional := by
  intro m m' hwf hwf' heq
  obtain ⟨hr, hl⟩ := wf_iff.mp hwf
  obtain ⟨hr', hl'⟩ := wf_iff.mp hwf'
  exact eq_of_readByte_eq hr hr' hl hl' heq

end Sys2Proof.Machine

/-! The invariant of the machine (R47): it holds at creation (O49), and every step keeps it (O50). -/

namespace Sys2Proof.Machine

open Sys2Proof

namespace Effect

variable {i : Instr} {s t : State}

/-- The counter stays within the tier's width (R32, R230): it is masked, cut by the host call, or written on a tier of
full width. -/
theorem keeps_hostDuty (h : Effect s i t) (hs : hostDuty s.variant s.host = true) :
    hostDuty t.variant t.host = true := by
  cases h with
  | hostCall _ hduty => exact hduty
  | wrPri | storeCur32 | storeCur64 | rdCram => exact hostDuty_of_masked rfl
  | cr3Write _ hw => exact (hostDuty_iff _ _).mpr fun hv => absurd hv hw.2.1.1
  | _ => exact hs

theorem keeps_cur32_ok (h : Effect s i t) (hs : s.cur32.Ok 256) : t.cur32.Ok 256 := by
  cases h with
  | storeCur32 d => exact ⟨wf_writeByte _ d hs.1, within_writeByte _ d (Nat.mod_lt _ (by norm_num)) hs.2⟩
  | _ => exact hs

theorem keeps_cur64_ok (h : Effect s i t) (hs : s.cur64.Ok 1024) : t.cur64.Ok 1024 := by
  cases h with
  | storeCur64 d => exact ⟨wf_writeByte _ d hs.1, within_writeByte _ d s.host.addr.isLt hs.2⟩
  | _ => exact hs

/-- On V0 neither cr3 nor CUR64 has a writer (R24, R30). -/
theorem ext_eq_of_not_hasExt (h : Effect s i t) (hv : hasExt s.variant = false) :
    t.cr3 = s.cr3 ∧ t.cur64 = s.cur64 := by
  have hv0 : ¬s.variant ≠ .v0 := fun hne => by simp [(hasExt_iff _).mpr hne] at hv
  constructor
  · by_contra hne
    obtain ⟨-, ⟨hext, -⟩, -⟩ := h.cr3_writer hne
    exact hv0 hext
  · by_contra hne
    obtain ⟨-, hext, -⟩ := h.cur64_writer hne
    exact hv0 hext

/-- Below V3 cr4 has no writer (R25). -/
theorem cr4_eq_of_not_hasCr4 (h : Effect s i t) (hv : hasCr4 s.variant = false) : t.cr4 = s.cr4 := by
  by_contra hne
  obtain ⟨-, -, -, hv3⟩ := h.cr4_writer hne
  simp [(hasCr4_iff _).mpr hv3] at hv

/-- A transaction requests at most one recalculation (R224). -/
theorem events_length_le (h : Effect s i t) : t.events.length ≤ 1 := by
  cases h with
  | blueByte _ _ hev => exact hev
  | wrCr1 | wrCr2 | cr3Write => exact le_rfl
  | _ => exact Nat.zero_le 1

theorem keeps_inv (h : Effect s i t) (hs : s.Inv) : t.Inv := by
  obtain ⟨hduty, h32, h64, hext, hcr4, -⟩ := hs
  refine ⟨h.keeps_hostDuty hduty, h.keeps_cur32_ok h32, h.keeps_cur64_ok h64, fun hv => ?_, fun hv => ?_,
    h.events_length_le⟩
  · rw [h.variant_eq] at hv
    obtain ⟨hcr3, hcur64⟩ := h.ext_eq_of_not_hasExt hv
    rw [hcr3, hcur64]
    exact hext hv
  · rw [h.variant_eq] at hv
    rw [h.cr4_eq_of_not_hasCr4 hv]
    exact hcr4 hv

end Effect

/-- Settles O50: a transaction's effect keeps the invariant; of the host's own actions only a change of the shared
fields touches it, and a step takes that only within the width. -/
theorem stepKeepsTheInvariant : Obligations.StepKeepsTheInvariant := by
  intro s t hs hstep
  obtain ⟨-, rfl⟩ | ⟨x, rest, -, hexec⟩ | ⟨g, rest, -, hduty, rfl⟩ | ⟨n, rest, -, rfl⟩ := step_cases hstep
  · exact hs
  · exact (effect_of_exec hexec).keeps_inv hs
  · exact ⟨hduty, hs.2⟩
  · exact hs

/-- The counter comes from HOST_INIT; everything else the invariant speaks of is 0 or empty (R48). -/
theorem inv_instantiate {v : Variant} {setup : HostSetup} (h : hostDuty v setup.hostInit = true) :
    (State.instantiate v setup).Inv :=
  ⟨h, ⟨rfl, rfl⟩, ⟨rfl, rfl⟩, fun _ => ⟨rfl, rfl⟩, fun _ => rfl, Nat.zero_le 1⟩

/-- Settles O49: State.reset is an instantiation whose HOST_INIT has counter 0. -/
theorem invariantHoldsAtReset : Obligations.InvariantHoldsAtReset :=
  ⟨fun _ _ => inv_instantiate, inv_instantiate (by decide)⟩

end Sys2Proof.Machine

/-! What instantiation leaves (R48, R250): settles O48. What no read can see (R46): settles O46. -/

namespace Sys2Proof.Machine

open Sys2Proof

theorem variantOfNat_eq_none_of_not_isTier {n : Nat} (h : isTier n = false) : variantOfNat n = none :=
  Option.not_isSome_iff_eq_none.mp (ne_true_of_eq_false h)

theorem palEntry_instantiate (v : Variant) (setup : HostSetup) (i : BitVec 2) :
    palEntry (State.instantiate v setup) i = { r := 0, g := 0, b := 0, packed := 0 } := by
  simp only [palEntry, State.instantiate, Vector.getElem_replicate]

/-- With cr0 0 the gate is closed, so the first read at code 0xA delivers the status byte (R102, R170). -/
theorem subRegisterRead_instantiate (v : Variant) (setup : HostSetup) :
    subRegisterRead (State.instantiate v setup) = statusByte (State.instantiate v setup) := by
  have hgate : subRegGate (State.instantiate v setup) = false := by
    simp only [subRegGate, State.instantiate, BitVec.ofNat_eq_ofNat, BitVec.getLsbD_zero, Bool.and_false]
  simp only [subRegisterRead, hgate, Bool.not_false, if_true]

/-- The status byte is the tier's ID while the position flag is 0 (R108). -/
theorem statusByte_of_pos_zero {s : State} (h : s.host.pos = 0) : statusByte s = sid s.variant := by
  rw [statusByte, if_pos h]
  exact BitVec.or_zero

/-- Settles O48: the record of R48 field by field, then the first status read. -/
theorem instantiationState : Obligations.InstantiationState := by
  intro v setup n
  refine ⟨fun hn => instantiateRaw_of_none (variantOfNat_eq_none_of_not_isTier hn) setup,
    rfl, rfl, rfl, rfl, rfl, rfl, rfl, rfl, rfl, rfl, palEntry_instantiate v setup, fun _ => ⟨rfl, rfl⟩,
    rfl, rfl, rfl, rfl, _, rfl, fun hpos => ?_⟩
  have hread : subRegisterRead (State.instantiate v setup) = sid v :=
    (subRegisterRead_instantiate v setup).trans (statusByte_of_pos_zero hpos)
  exact congrArg some (hread.trans (by cases v <;> rfl))

/-- The state with other hidden parts: the transfer phase, the staged bytes and the palette (R46). -/
def withHidden (s : State) (p : Phase) (r g : Byte) (pal : Vector PalEntry 4) : State :=
  { s with phase := p, stR := r, stG := g, extPal := pal }

/-- Both complete, with the same byte and the same host-shared fields. -/
def AgreeOnRead (a b : Host.Outcome State Fault Refusal) : Prop :=
  ∃ t t', a = .next t ∧ b = .next t' ∧ t.readData = t'.readData ∧ t'.host = t.host

theorem completeRead_agree {rule : State → Byte × State} {s u : State}
    (hbyte : (rule (beginTransaction s)).1 = (rule (beginTransaction u)).1)
    (hhost : (rule (beginTransaction u)).2.host = (rule (beginTransaction s)).2.host) :
    AgreeOnRead (completeRead rule s) (completeRead rule u) :=
  ⟨_, _, rfl, rfl, congrArg some hbyte, hhost⟩

/-- The read of the palette delivers a blue byte, which the two palettes share (R165). -/
theorem execRdEpd_withHidden {s : State} {p : Phase} {r g : Byte} {pal : Vector PalEntry 4}
    (hblue : ∀ j : BitVec 2, (pal[j.toNat]'j.isLt).b = (palEntry s j).b) :
    AgreeOnRead (execRdEpd s) (execRdEpd (withHidden s p r g pal)) :=
  completeRead_agree (congrArg (blueRead s.host.prec8) (hblue (extEntry s)).symm) rfl

/-- The read of the cursor RAM uses the buffers, the counter, the size and the tier (R105, R176). -/
theorem execRdCram_withHidden (s : State) (p : Phase) (r g : Byte) (pal : Vector PalEntry 4) :
    AgreeOnRead (execRdCram s) (execRdCram (withHidden s p r g pal)) :=
  completeRead_agree rfl rfl

/-- Settles O46: code 0x5 is the one read whose rule names a hidden part, and of it the blue byte alone. -/
theorem hiddenStateCannotBeRead : Obligations.HiddenStateCannotBeRead := by
  intro i s p r g pal hread hblue
  cases i with
  | rdEpd => exact execRdEpd_withHidden hblue
  | rdPwi | rdPd | rdPmask | rdPri | rdEpwi | rdCr0 | rdEpri | rdCr1 | rdCr2 | rdIdx | rdCxl | rdCxh | rdCyl
  | rdCyh => exact completeRead_agree rfl rfl
  | rdCram => exact execRdCram_withHidden s p r g pal
  | _ => cases hread

end Sys2Proof.Machine

/-! The reads that can be repeated (R69): settles O43. -/

namespace Sys2Proof.Machine

open Sys2Proof

/-- A read does not see what the transaction before it delivered (R41, R80). -/
theorem completeRead_of_outputs (rule : State → Byte × State) (s : State) (ev : List Event) (rd : Option Byte) :
    completeRead rule { s with events := ev, readData := rd } = completeRead rule s := rfl

/-- A read whose rule hands its state back changes the transaction's outputs alone. -/
theorem completeRead_pure (f : State → Byte) (s : State) :
    completeRead (fun u => (f u, u)) s = .next { s with events := [], readData := some (f (beginTransaction s)) } := rfl

/-- An instruction with such a rule can be repeated: the second run does not see the first, so it delivers the same
byte. -/
theorem exec_repeats_of_pure {i : Instr} (f : State → Byte)
    (hi : ∀ s, exec i s = completeRead (fun u => (f u, u)) s) (s : State) :
    ∃ b, exec i s = .next { s with events := [], readData := some b } ∧
      exec i { s with events := [], readData := some b } = .next { s with events := [], readData := some b } := by
  refine ⟨f (beginTransaction s), (hi s).trans (completeRead_pure f s), ?_⟩
  rw [hi, completeRead_of_outputs, completeRead_pure]

/-- Settles O43: the rule of every read but the five left out hands its state back. -/
theorem plainReadsAreIdempotent : Obligations.PlainReadsAreIdempotent := by
  intro i s hread hcode
  cases i with
  | rdPri => exact exec_repeats_of_pure (fun u => u.host.addr.setWidth 8) (fun _ => rfl) s
  | rdEpwi | rdEpri => exact exec_repeats_of_pure State.extAddr (fun _ => rfl) s
  | rdCr0 => exact exec_repeats_of_pure State.cr0 (fun _ => rfl) s
  | rdCr1 => exact exec_repeats_of_pure State.cr1 (fun _ => rfl) s
  | rdCr2 => exact exec_repeats_of_pure State.cr2 (fun _ => rfl) s
  | rdIdx => exact exec_repeats_of_pure subRegisterRead (fun _ => rfl) s
  | rdCxl => exact exec_repeats_of_pure (fun u => counterLow u.curXcnt) (fun _ => rfl) s
  | rdCxh => exact exec_repeats_of_pure (fun u => counterHigh u.curXcnt) (fun _ => rfl) s
  | rdCyl => exact exec_repeats_of_pure (fun u => counterLow u.curYcnt) (fun _ => rfl) s
  | rdCyh => exact exec_repeats_of_pure (fun u => counterHigh u.curYcnt) (fun _ => rfl) s
  | rdPwi | rdPd | rdPmask | rdEpd | rdCram => exact absurd hcode (by decide)
  | _ => cases hread

end Sys2Proof.Machine

/-! The transaction word as a number (R82) and the code of the pins (R81): settles O3 and O4. -/

namespace Sys2Proof

open Sys2Proof.Machine

/-- Bit 12 is the top bit of the word. -/
theorem getLsbD_twelve (t : TxnWord) : t.getLsbD 12 = decide (0x1000 ≤ t.toNat) :=
  BitVec.msb_eq_decide t

/-- A word is the sum of its three fields. -/
theorem toNat_eq_fields (t : TxnWord) :
    t.toNat = 0x1000 * (t.getLsbD 12).toNat + (t.extractLsb' 8 4).toNat * 256 + (t.extractLsb' 0 8).toNat := by
  have ht := t.isLt
  rw [getLsbD_twelve, BitVec.extractLsb'_toNat, BitVec.extractLsb'_toNat, Nat.shiftRight_eq_div_pow,
    Nat.shiftRight_zero]
  by_cases h : 0x1000 ≤ t.toNat
  · rw [decide_eq_true h, Bool.toNat_true]
    omega
  · rw [decide_eq_false h, Bool.toNat_false]
    omega

theorem toNat_encode_writeAt (rs : RegSel) (d : Byte) :
    (encode (writeAt rs d)).toNat = 0x1000 + rs.toNat * 256 + d.toNat := by
  obtain ⟨hw, hcode, hdata⟩ := writeWord_fields rs d
  rw [encode_writeAt, toNat_eq_fields, hw, hcode, hdata, Bool.toNat_true, Nat.mul_one]

theorem toNat_encode_readAt (rs : RegSel) : (encode (readAt rs)).toNat = rs.toNat * 256 := by
  have hrs := rs.isLt
  rw [encode_readAt, BitVec.toNat_shiftLeft, BitVec.toNat_setWidth, Nat.shiftLeft_eq]
  omega

theorem code_decodeWord_toNat (t : TxnWord) : (decodeWord t).code.toNat = t.toNat / 256 % 16 := by
  rw [decodeWord, code_instrAt, BitVec.extractLsb'_toNat, Nat.shiftRight_eq_div_pow]

theorem access_decodeWord (t : TxnWord) :
    (decodeWord t).access = if t.toNat < 0x1000 then .read else .write (BitVec.ofNat 8 (t.toNat % 256)) := by
  have hdata : t.extractLsb' 0 8 = BitVec.ofNat 8 (t.toNat % 256) := by
    apply BitVec.eq_of_toNat_eq
    simp
  rw [decodeWord, access_instrAt, wordAccess, getLsbD_twelve, hdata]
  by_cases h : t.toNat < 0x1000
  · simp [h]
  · simp [h, Nat.le_of_not_lt h]

/-- A 16-bit number with a bit above bit 12 has a high byte that no word has (R82). -/
theorem tableWord_eq_none {n : Nat} (hlo : 0x2000 ≤ n) (hhi : n < 65536) : tableWord 16 n = none := by
  have h16 : n % 2 ^ 16 = n := Nat.mod_eq_of_lt hhi
  have htop : (BitVec.ofNat 8 (n / 0x100)).extractLsb' 5 3 ≠ 0 := by
    intro h
    have hval : n / 256 % 256 / 32 % 8 = 0 := by
      simpa [Nat.shiftRight_eq_div_pow] using congrArg BitVec.toNat h
    omega
  simp only [tableWord, tableBytes, wordOfBytes, h16, if_neg htop, if_pos (le_refl 16)]

theorem decodeTableWord_isSome_iff {n : Nat} (hn : n < 65536) :
    (decodeTableWord 16 n).isSome = true ↔ n < 0x2000 := by
  rw [decodeTableWord, Option.isSome_map]
  constructor
  · intro hsome
    by_contra hlo
    simp [tableWord_eq_none (Nat.le_of_not_lt hlo) hn] at hsome
  · intro hlt
    have hword := tableWord_toNat (BitVec.ofNat 13 n)
    rw [BitVec.toNat_ofNat, Nat.mod_eq_of_lt hlt] at hword
    rw [hword, Option.isSome_some]

/-- Settles O3: an encoded word is the sum of its fields, and a decoded one has its fields by division. -/
theorem transactionWordLayout : Obligations.TransactionWordLayout :=
  ⟨toNat_encode_writeAt, toNat_encode_readAt, fun t => ⟨code_decodeWord_toNat t, access_decodeWord t⟩,
    fun _ hn => decodeTableWord_isSome_iff hn⟩

/-- Settles O4: the select lines weigh 8 and 4, multiples of 4, so the remainder is the offset's. -/
theorem registerSelectFormula : Obligations.RegisterSelectFormula := by
  intro sel2 sel3 offset
  rw [registerSelect_toNat]
  exact ⟨by cases sel2 <;> cases sel3 <;> rfl, by omega⟩

end Sys2Proof

/-! The packed colour (R106) and the status byte (R108): settles O17 and O29. -/

namespace Sys2Proof.Machine

open Sys2Proof

/-- Three bytes side by side are their sum at weights 2^16, 2^8 and 1. -/
theorem toNat_append_bytes (r g b : Byte) :
    (r ++ g ++ b).toNat = r.toNat * 65536 + g.toNat * 256 + b.toNat := by
  rw [BitVec.toNat_append, ← Nat.shiftLeft_add_eq_or_of_lt b.isLt, BitVec.toNat_append,
    ← Nat.shiftLeft_add_eq_or_of_lt g.isLt, Nat.shiftLeft_eq, Nat.shiftLeft_eq]
  omega

/-- The expansion table is read at the component modulo 64 (R106). -/
theorem expand6_eq (table : Nat) (c : Byte) :
    expand6 table c = Config.e6to8 table (BitVec.ofNat 6 (c.toNat % 64)) := by
  have hlow : c.extractLsb' 0 6 = BitVec.ofNat 6 (c.toNat % 64) := by
    apply BitVec.eq_of_toNat_eq
    simp
  rw [expand6, hlow]

/-- Settles O17: in either mode the packed colour is three bytes side by side. -/
theorem packedColourLayout : Obligations.PackedColourLayout := by
  intro prec8 table r g b
  cases prec8 with
  | true => exact toNat_append_bytes r g b
  | false =>
    simp only [← expand6_eq]
    exact toNat_append_bytes (expand6 table r) (expand6 table g) (expand6 table b)

/-- No tier's ID has the status bit (R108). -/
theorem getLsbD_two_sid (v : Variant) : (sid v).getLsbD 2 = false := by
  cases v <;> rfl

/-- The status byte while the position flag is not 0 (R108). -/
theorem statusByte_of_pos_ne_zero {s : State} (h : s.host.pos ≠ 0) : statusByte s = sid s.variant ||| 0x04 := by
  rw [statusByte, if_neg h]
  rfl

/-- Bit by bit: the position flag shows in bit 2, and every other bit is the ID's (R108). -/
theorem getLsbD_statusByte (s : State) (k : Nat) :
    (statusByte s).getLsbD k = if k = 2 then decide (s.host.pos ≠ 0) else (sid s.variant).getLsbD k := by
  have hfour : (0x04 : Byte).getLsbD k = decide (k = 2) := by
    rw [show (0x04 : Byte) = BitVec.twoPow 8 2 from rfl, BitVec.getLsbD_twoPow]
    simp [eq_comm]
  by_cases hpos : s.host.pos = 0
  · rw [statusByte_of_pos_zero hpos]
    by_cases hk : k = 2
    · rw [hk, getLsbD_two_sid]
      simp [hpos]
    · rw [if_neg hk]
  · rw [statusByte_of_pos_ne_zero hpos, BitVec.getLsbD_or, hfour]
    by_cases hk : k = 2
    · simp [hk, hpos]
    · simp [hk]

/-- Settles O29: the byte by the two values of the flag, its bits by `getLsbD_statusByte`. -/
theorem statusByteReportsThePositionFlag : Obligations.StatusByteReportsThePositionFlag := by
  intro s
  refine ⟨?_, by rw [getLsbD_statusByte, if_pos rfl], fun k hk => by rw [getLsbD_statusByte, if_neg hk], rfl⟩
  by_cases hpos : s.host.pos = 0
  · rw [if_neg (not_not.mpr hpos), statusByte_of_pos_zero hpos]
    exact BitVec.or_zero.symm
  · rw [if_pos hpos, statusByte_of_pos_ne_zero hpos]

end Sys2Proof.Machine

/-! The writes at codes 0x3 to 0x7 (R123 to R130): settles O12, O14, O16, O20 and O22. -/

namespace Sys2Proof.Machine

open Sys2Proof

/-- A bit of a word as a remainder. -/
theorem getLsbD_eq_decide {w : Nat} (x : BitVec w) (k : Nat) : x.getLsbD k = decide (x.toNat / 2 ^ k % 2 = 1) :=
  Nat.testBit_eq_decide_div_mod_eq

/-! ### The index writes -/

/-- The counter WR.PRI leaves: the loaded index plus one, wrapped to the tier's width (R123). -/
theorem nextAddr_orCr3Bits_byte (v : Variant) (c d : Byte) :
    nextAddr v (orCr3Bits v c (d.setWidth 10)) =
      BitVec.ofNat 10 (if v = .v0 then (d.toNat + 1) % 256 else (d.toNat + c.toNat % 4 * 256 + 1) % 1024) := by
  rw [nextAddr_eq, toNat_orCr3Bits_byte]
  split <;> rfl

/-- Settles O12: the rule's record, with the counter by `nextAddr_orCr3Bits_byte`. -/
theorem paletteReadIndexWrite : Obligations.PaletteReadIndexWrite := by
  intro d s
  rw [← nextAddr_orCr3Bits_byte]
  exact ⟨decodeWord_write 0x3 d, rfl⟩

/-- Code 0x4 has bit 0 clear, so it loads the byte (R124). -/
theorem extAddrOperand_four (d : Byte) : extAddrOperand 0x4 d = d := BitVec.add_zero d

/-- Code 0x7 has bit 0 set, so it loads the byte plus one (R130). -/
theorem extAddrOperand_seven (d : Byte) : extAddrOperand 0x7 d = BitVec.ofNat 8 ((d.toNat + 1) % 256) := by
  apply BitVec.eq_of_toNat_eq
  simp [extAddrOperand]

/-- Settles O14: the two rules differ in the code's low bits alone, which give the status and the increment. -/
theorem extendedIndexWrites : Obligations.ExtendedIndexWrites := by
  intro d s
  refine ⟨decodeWord_write 0x4 d, decodeWord_write 0x7 d, ?_, ?_⟩
  · conv_rhs => rw [← extAddrOperand_four d]
    rfl
  · rw [← extAddrOperand_seven]
    rfl

/-! ### The three-byte write -/

/-- Settles O16: the first two bytes are staged, and the third is `completeEntry_eq`. -/
theorem extendedPaletteDataWrite : Obligations.ExtendedPaletteDataWrite := by
  intro d s
  refine ⟨decodeWord_write 0x5 d, congrArg Host.Outcome.next ?_⟩
  simp only [beginTransaction_phase, withHost_phase]
  cases s.phase with
  | p0 => rfl
  | p1 => rfl
  | p2 => exact completeEntry_eq d _

/-- The write at code 0x5 is the one constructor WR.EPD (R84). -/
theorem eq_wrEpd_of_place {i : Instr} (h : place i = (false, 0x5)) : ∃ d, i = .wrEpd d := by
  cases i with
  | wrEpd d => exact ⟨d, rfl⟩
  | _ => simp [place, Instr.code, Instr.isRead, Instr.access] at h

/-- The read at code 0x5 is RD.EPD (R84). -/
theorem eq_rdEpd_of_place {i : Instr} (h : place i = (true, 0x5)) : i = .rdEpd := by
  cases i with
  | rdEpd => rfl
  | _ => simp [place, Instr.code, Instr.isRead, Instr.access] at h

/-- Settles O20: a host action keeps the phase, so the step ran a transaction, and `Effect.phase_writers` names its
code; the read's rule writes phase 0. -/
theorem onlyCode5ChangesThePhase : Obligations.OnlyCode5ChangesThePhase := by
  refine ⟨fun s t hstep hne => ?_, fun s => ⟨_, rfl, rfl⟩⟩
  obtain ⟨-, rfl⟩ | ⟨x, rest, hin, hexec⟩ | ⟨g, rest, -, -, rfl⟩ | ⟨n, rest, -, rfl⟩ := step_cases hstep
  case inr.inl =>
    obtain hw | ⟨hr, -⟩ := (effect_of_exec hexec).phase_writers hne
    · exact ⟨x, rest, hin, .inl (eq_wrEpd_of_place hw)⟩
    · exact ⟨x, rest, hin, .inr (eq_rdEpd_of_place hr)⟩
  all_goals exact absurd rfl hne

/-! ### The command registers -/

/-- Settles O22: the rule's record, with bit 1 as a remainder. -/
theorem commandRegister0Write : Obligations.CommandRegister0Write := by
  intro d s
  refine ⟨decodeWord_write 0x6 d, ?_⟩
  have hbit : d.getLsbD 1 = decide (d.toNat / 2 % 2 = 1) := getLsbD_eq_decide d 1
  rw [← hbit]
  rfl

/-- The resolver's table (R203) on bits 6:5 of cr1 as one number: with cr2 bit 5 set, a row for each value of the two. -/
theorem resolveDepth_eq (cr1 cr2 : Byte) :
    resolveDepth cr1 cr2 =
      if cr2.toNat / 32 % 2 = 0 then .bpp8
      else if cr1.toNat / 32 % 4 = 0 then .bpp32
      else if cr1.toNat / 32 % 4 = 1 then (if cr1.toNat / 8 % 2 = 1 then .bpp16 else .bpp15)
      else if cr1.toNat / 32 % 4 = 2 then .bpp8
      else .bpp4 := by
  simp only [resolveDepth, getLsbD_eq_decide, Nat.reducePow, decide_eq_true_eq]
  by_cases h : cr2.toNat / 32 % 2 = 0
  · simp only [h, if_true, zero_ne_one, if_false]
  · have hrow : cr1.toNat / 32 % 4 = cr1.toNat / 32 % 2 + 2 * (cr1.toNat / 64 % 2) := by omega
    rw [if_pos (Nat.mod_two_ne_zero.mp h), if_neg h, hrow]
    obtain h6 | h6 := Nat.mod_two_eq_zero_or_one (cr1.toNat / 64)
    · obtain h5 | h5 := Nat.mod_two_eq_zero_or_one (cr1.toNat / 32) <;> simp [h5, h6]
    · obtain h5 | h5 := Nat.mod_two_eq_zero_or_one (cr1.toNat / 32) <;> simp [h5, h6]

/-- The cursor enable: bits 1:0 are not both 0 (R132). -/
theorem and_three_bne_zero (d : Byte) : (d &&& 0x3#8 != 0#8) = decide (d.toNat % 4 ≠ 0) := by
  revert d; decide

/-- Settles O23: each rule's record, with the depth by `resolveDepth_eq`. -/
theorem commandRegister1And2Writes : Obligations.CommandRegister1And2Writes := by
  intro d s
  refine ⟨decodeWord_write 0x8 d, decodeWord_write 0x9 d, ?_, ?_⟩
  · simp only [← resolveDepth_eq]
    rfl
  · simp only [← resolveDepth_eq, ← and_three_bne_zero]
    rfl

end Sys2Proof.Machine

/-! The writes at codes 0xA to 0xF (R133 to R141): settles O27, O30, O31 and O38. -/

namespace Sys2Proof.Machine

open Sys2Proof

/-! ### Code 0xA -/

/-- Bit 2 of cr3 as a remainder (R134). -/
theorem cr3CursorSize_eq (d : Byte) :
    cr3CursorSize d = if d.toNat / 4 % 2 = 1 then .size64 else .size32 := by
  simp only [cr3CursorSize, getLsbD_eq_decide, decide_eq_true_eq]
  rfl

theorem replaceHighBits_eq (a : BitVec 10) (c : Byte) :
    replaceHighBits a c = BitVec.ofNat 10 (a.toNat % 256 + c.toNat % 4 * 256) := by
  rw [← toNat_replaceHighBits, BitVec.ofNat_toNat, BitVec.setWidth_eq]

/-- A cr3 write in the spec's arithmetic (R134). -/
theorem writeCr3_beginTransaction_eq (d : Byte) (s : State) :
    writeCr3 d (beginTransaction s) = { s with
      events := [.recalc], readData := none, cr3 := d
      host := { s.host with
        curSize := if d.toNat / 4 % 2 = 1 then .size64 else .size32
        curYOff := if d.toNat / 4 % 2 = 1 then .off0 else .off32
        curX := s.curXcnt.toNat - (if d.toNat / 4 % 2 = 1 then 64 else 32 : Int)
        curY := s.curYcnt.toNat - (if d.toNat / 4 % 2 = 1 then 64 else 32 : Int)
        addr := BitVec.ofNat 10 (s.host.addr.toNat % 256 + d.toNat % 4 * 256) } } := by
  rw [writeCr3_eq, cr3CursorSize_eq, replaceHighBits_eq]
  split <;> rfl

/-- Settles O27: `execWrIdx_eq` with its conditions as numbers. -/
theorem indexedWrite : Obligations.IndexedWrite := by
  intro d s
  refine ⟨decodeWord_write 0xA d, (execWrIdx_eq d s).trans ?_⟩
  simp only [subRegGate_iff, subAddress_eq_iff, hasCr4_iff, writeCr3_beginTransaction_eq]
  rfl

theorem exec_wrIdx_of_cr3 {s : State} (d : Byte) (hg : subRegGate s = true) (hsub : subAddress s = 1) :
    exec (.wrIdx d) s = .next (writeCr3 d (beginTransaction s)) :=
  (execWrIdx_eq d s).trans (congrArg _ (if_pos ⟨hg, hsub⟩))

theorem exec_wrIdx_of_cr4 {s : State} (d : Byte) (hg : subRegGate s = true) (hsub : subAddress s = 2)
    (hv : s.variant = .v3) : exec (.wrIdx d) s = .next { beginTransaction s with cr4 := d } := by
  refine (execWrIdx_eq d s).trans ?_
  rw [if_neg (by simp [hsub]), if_pos ⟨hg, hsub, (hasCr4_iff _).mpr hv⟩]

theorem subRegisterRead_of_cr3 {s : State} (hg : subRegGate s = true) (hsub : subAddress s = 1) :
    subRegisterRead s = cr3Read s := by
  simp [subRegisterRead, hg, hsub]

theorem subRegisterRead_of_cr4 {s : State} (hg : subRegGate s = true) (hsub : subAddress s = 2)
    (hv : s.variant = .v3) : subRegisterRead s = s.cr4 := by
  simp [subRegisterRead, hg, hsub, hv, hasCr4]

/-- The bits a cr3 write puts in the counter are the ones the cr3 read ORs back (R134, R172). -/
theorem replaceHighBits_high (a : BitVec 10) (c : Byte) :
    (replaceHighBits a c >>> 8).setWidth 8 &&& 0x3#8 = c &&& 0x3#8 := by
  have h : (replaceHighBits a c >>> 8).setWidth 8 = BitVec.ofNat 8 (c.toNat % 4) := by
    apply BitVec.eq_of_toNat_eq
    rw [BitVec.toNat_setWidth, BitVec.toNat_ushiftRight, toNat_replaceHighBits, Nat.shiftRight_eq_div_pow,
      BitVec.toNat_ofNat]
    omega
  have hlow : ∀ x : Byte, BitVec.ofNat 8 (x.toNat % 4) &&& 0x3#8 = x &&& 0x3#8 := by decide
  rw [h, hlow]

theorem cr3Read_writeCr3 (d : Byte) (s : State) : cr3Read (writeCr3 d s) = d &&& 0x3F := by
  have hbits : ∀ c : Byte, (c &&& cr3ReadMask) ||| (c &&& 0x3#8) = c &&& 0x3F := by decide
  rw [cr3Read, writeCr3_eq, replaceHighBits_high, hbits]

theorem subAddress_writeCr3 (d : Byte) (s : State) : subAddress (writeCr3 d s) = subAddress s := by
  rw [subAddress_eq_iff, toNat_subAddress, writeCr3_eq, toNat_replaceHighBits]
  omega

theorem subRegGate_writeCr3 (d : Byte) (s : State) : subRegGate (writeCr3 d s) = subRegGate s := rfl

theorem exec_rdIdx_eq (s : State) :
    exec .rdIdx s = .next { s with events := [], readData := some (subRegisterRead s) } := rfl

/-- Settles O30: neither write moves the sub-address or closes the gate, so the read finds the register just written. -/
theorem subRegisterReadBack : Obligations.SubRegisterReadBack := by
  intro d s hv0 hcr0
  have hg : subRegGate s = true := by rw [subRegGate, hcr0, (hasExt_iff _).mpr hv0]; rfl
  refine ⟨fun haddr => ?_, fun haddr hv => ?_⟩
  · have hsub : subAddress s = 1 := (subAddress_eq_iff s 1).mpr haddr
    refine ⟨_, _, exec_wrIdx_of_cr3 d hg hsub, exec_rdIdx_eq _, congrArg some ?_⟩
    have hg' : subRegGate (writeCr3 d (beginTransaction s)) = true := (subRegGate_writeCr3 d _).trans hg
    have hsub' : subAddress (writeCr3 d (beginTransaction s)) = 1 := (subAddress_writeCr3 d _).trans hsub
    rw [subRegisterRead_of_cr3 hg' hsub', cr3Read_writeCr3]
  · have hsub : subAddress s = 2 := (subAddress_eq_iff s 2).mpr haddr
    exact ⟨_, _, exec_wrIdx_of_cr4 d hg hsub hv, exec_rdIdx_eq _, congrArg some (subRegisterRead_of_cr4 hg hsub hv)⟩

/-! ### Code 0xB -/

/-- Where a write at code 0xB goes (R105, R137). -/
theorem cursorSelect_cursorWriteIndex (s : State) :
    cursorSelect s (cursorWriteIndex s) =
      if s.variant ≠ .v0 ∧ s.host.curSize = .size64 then (.cur64, s.host.addr.toNat)
      else (.cur32, s.host.addr.toNat % 256) := by
  rw [cursorSelect_eq, toNat_cursorWriteIndex]

/-- What WR.CRAM leaves (R137): one buffer written, the counter advanced. -/
theorem exec_wrCram_eq (d : Byte) (s : State) :
    exec (.wrCram d) s = .next { s with
      events := [], readData := none
      cur32 := if s.variant ≠ .v0 ∧ s.host.curSize = .size64 then s.cur32
        else writeByte s.cur32 (s.host.addr.toNat % 256) d
      cur64 := if s.variant ≠ .v0 ∧ s.host.curSize = .size64 then writeByte s.cur64 s.host.addr.toNat d
        else s.cur64
      host := { s.host with addr := nextAddr s.variant s.host.addr } } := by
  refine congrArg Host.Outcome.next ?_
  change incAddr (storeCursor (beginTransaction s) (cursorSelect s (cursorWriteIndex s)) d) = _
  rw [cursorSelect_cursorWriteIndex]
  by_cases hb : s.variant ≠ .v0 ∧ s.host.curSize = .size64
  · simp only [if_pos hb]
    rfl
  · simp only [if_neg hb]
    rfl

/-- Settles O31: `exec_wrCram_eq`, and the law of a read after a write in the buffer selected. -/
theorem cursorRamWrite : Obligations.CursorRamWrite := by
  intro d s
  refine ⟨decodeWord_write 0xB d, ?_, _, exec_wrCram_eq d s, ?_, fun hb => if_pos hb, fun hb => if_neg hb,
    fun hb hwf a => ?_, fun hb hwf a => ?_⟩
  · rw [cursorSelect_cursorWriteIndex]
    split <;> rfl
  · rw [nextAddr_eq]
  · simp only [if_pos hb, readByte_writeByte_wf hwf, @eq_comm _ a]
  · simp only [if_neg hb, readByte_writeByte_wf hwf, @eq_comm _ a]

/-! ### Codes 0xC to 0xF -/

/-- Settles O38: each rule's record, with the merged counter as a sum and the size as its number of pixels. -/
theorem cursorCounterWrites : Obligations.CursorCounterWrites := by
  intro d s low high size
  have hsize : size = (s.host.curSize.pixels : Int) := by
    dsimp only [size]
    cases s.host.curSize <;> rfl
  refine ⟨decodeWord_write 0xC d, decodeWord_write 0xD d, decodeWord_write 0xE d, decodeWord_write 0xF d, ?_⟩
  simp only [low, high, hsize, ← toNat_mergeLow, ← toNat_mergeHigh, BitVec.ofNat_toNat, BitVec.setWidth_eq]
  exact ⟨rfl, rfl, rfl, rfl⟩

end Sys2Proof.Machine

/-! The reads at codes 0x3 to 0x9 (R163 to R169): settles O13, O15, O19 and O24. -/

namespace Sys2Proof.Machine

open Sys2Proof

/-! ### Codes 0x3, 0x4 and 0x7: the index reads -/

/-- What RD.PRI leaves (R163). -/
theorem exec_rdPri_eq (s : State) :
    exec .rdPri s = .next { s with
      events := [], readData := some (BitVec.ofNat 8 (s.host.addr.toNat % 256)) } := by
  have hlow : BitVec.ofNat 8 (s.host.addr.toNat % 256) = subAddress s := by
    rw [← toNat_subAddress, BitVec.ofNat_toNat, BitVec.setWidth_eq]
  rw [hlow]
  exact completeRead_pure subAddress s

/-- The counter after a write at code 0x3 (R123). -/
theorem exec_wrPri_eq (d : Byte) (s : State) :
    exec (.wrPri d) s = .next { s with
      events := [], readData := none
      host := { s.host with
        pos := 0, status := 3, addr := nextAddr s.variant (orCr3Bits s.variant s.cr3 (d.setWidth 10)) } } := rfl

/-- The low byte of the counter after a write at code 0x3: cr3's bits stand above it (R123, R163). -/
theorem toNat_nextAddr_orCr3Bits_byte_mod (v : Variant) (c d : Byte) :
    (nextAddr v (orCr3Bits v c (d.setWidth 10))).toNat % 256 = (d.toNat + 1) % 256 := by
  rw [toNat_nextAddr, toNat_orCr3Bits_byte]
  split <;> omega

/-- Settles O13: the read leaves the low byte, which the write at code 0x3 made `D + 1`. -/
theorem paletteReadIndexRead : Obligations.PaletteReadIndexRead := by
  refine ⟨decodeWord_read 0x3, exec_rdPri_eq, fun d s => ⟨_, _, exec_wrPri_eq d s, exec_rdPri_eq _, ?_⟩⟩
  exact congrArg (fun n => some (BitVec.ofNat 8 n)) (toNat_nextAddr_orCr3Bits_byte_mod s.variant s.cr3 d)

/-- Both index reads deliver the extended address (R164, R167). -/
theorem exec_extIndexRead_eq {i : Instr} (hi : i ∈ [Instr.rdEpwi, .rdEpri]) (s : State) :
    exec i s = .next { s with events := [], readData := some s.extAddr } := by
  obtain rfl | rfl : i = .rdEpwi ∨ i = .rdEpri := by simpa using hi
  · exact completeRead_pure State.extAddr s
  · exact completeRead_pure State.extAddr s

/-- A byte plus one, as a remainder. -/
theorem byte_add_one_eq (a : Byte) : a + 1#8 = BitVec.ofNat 8 ((a.toNat + 1) % 256) := by
  apply BitVec.eq_of_toNat_eq
  simp

/-- Settles O15: O14 says what each index write leaves in the extended address, which both reads deliver. -/
theorem extendedIndexReads : Obligations.ExtendedIndexReads := by
  refine ⟨fun x => ⟨decodeWord_read 0x4 x, decodeWord_read 0x7 x⟩, fun s i hi => exec_extIndexRead_eq hi s,
    fun d s i hi => ?_⟩
  obtain ⟨-, -, hwrEpwi, hwrEpri⟩ := extendedIndexWrites d s
  exact ⟨_, _, _, _, hwrEpwi, exec_extIndexRead_eq hi _, rfl, hwrEpri, exec_extIndexRead_eq hi _,
    congrArg some (byte_add_one_eq d).symm⟩

/-! ### Code 0x5: the extended-palette data read -/

/-- The low six bits of a byte as a remainder. -/
theorem and_63_eq (b : Byte) : b &&& 0x3F#8 = BitVec.ofNat 8 (b.toNat % 64) := by
  apply BitVec.eq_of_toNat_eq
  have hand : (b &&& 0x3F#8).toNat = b.toNat % 64 := Nat.and_two_pow_sub_one_eq_mod b.toNat 6
  rw [hand, BitVec.toNat_ofNat]
  omega

theorem blueRead_eq (prec8 : Bool) (b : Byte) :
    blueRead prec8 b = if prec8 then b else BitVec.ofNat 8 (b.toNat % 64) := by
  rw [blueRead, and_63_eq]

theorem extEntry_eq (s : State) : extEntry s = BitVec.ofNat 2 (s.extAddr.toNat % 4) := by
  rw [← toNat_extEntry, BitVec.ofNat_toNat, BitVec.setWidth_eq]

/-- Settles O19: the rule's record does not look at the phase; the entry, the byte and the address as remainders. -/
theorem extendedPaletteDataRead : Obligations.ExtendedPaletteDataRead := by
  refine ⟨decodeWord_read 0x5, fun s => ?_⟩
  simp only [← blueRead_eq, ← extEntry_eq, ← byte_add_one_eq]
  rfl

/-! ### Codes 0x6, 0x8 and 0x9: the command registers -/

/-- Settles O24: the rule of each of the three reads hands its state back with the register. -/
theorem commandRegisterReads : Obligations.CommandRegisterReads :=
  ⟨fun x => ⟨decodeWord_read 0x6 x, decodeWord_read 0x8 x, decodeWord_read 0x9 x⟩,
    fun s => ⟨completeRead_pure State.cr0 s, completeRead_pure State.cr1 s, completeRead_pure State.cr2 s⟩⟩

end Sys2Proof.Machine

/-! The reads at codes 0xA to 0xF (R170 to R180): settles O28, O32, O33 and O39. -/

namespace Sys2Proof.Machine

open Sys2Proof

/-! ### Code 0xA -/

/-- The three placeholder sub-addresses are an interval (R174). -/
theorem subAddress_placeholder_iff (s : State) :
    (subAddress s = 0x20#8 ∨ subAddress s = 0x21#8 ∨ subAddress s = 0x22#8) ↔
      0x20 ≤ s.host.addr.toNat % 256 ∧ s.host.addr.toNat % 256 ≤ 0x22 := by
  simp only [← BitVec.toNat_inj, toNat_subAddress, BitVec.toNat_ofNat]
  omega

/-- The read at code 0xA with every clause under its own gate, tier and sub-address (R170 to R175). Sub-address 0 is one
of the other cases (R171). -/
theorem subRegisterRead_eq_ite (s : State) :
    subRegisterRead s =
      if subRegGate s = true ∧ subAddress s = 1 then cr3Read s
      else if subRegGate s = true ∧ hasCr4 s.variant = true ∧ subAddress s = 2 then s.cr4
      else if subRegGate s = true ∧ hasCr4 s.variant = true ∧
        0x20 ≤ s.host.addr.toNat % 256 ∧ s.host.addr.toNat % 256 ≤ 0x22 then 0xFF
      else statusByte s := by
  simp only [← subAddress_placeholder_iff]
  by_cases hg : subRegGate s = true
  · by_cases h0 : subAddress s = 0#8
    · simp [subRegisterRead, h0]
    · simp [subRegisterRead, hg, h0]
  · simp [subRegisterRead, hg]

/-- The cr3 read: cr3 modulo 64, and the counter above its low byte (R172). -/
theorem cr3Read_eq (s : State) :
    cr3Read s = BitVec.ofNat 8 (s.cr3.toNat % 64) ||| BitVec.ofNat 8 (s.host.addr.toNat / 256) := by
  have hhigh : (s.host.addr >>> 8).setWidth 8 &&& 0x3#8 = BitVec.ofNat 8 (s.host.addr.toNat / 256) := by
    apply BitVec.eq_of_toNat_eq
    have hand : ((s.host.addr >>> 8).setWidth 8 &&& 0x3#8).toNat = ((s.host.addr >>> 8).setWidth 8).toNat % 4 :=
      Nat.and_two_pow_sub_one_eq_mod _ 2
    rw [hand, BitVec.toNat_setWidth, BitVec.toNat_ushiftRight, Nat.shiftRight_eq_div_pow, BitVec.toNat_ofNat]
    omega
  have hlow : s.cr3 &&& cr3ReadMask = BitVec.ofNat 8 (s.cr3.toNat % 64) := and_63_eq s.cr3
  rw [cr3Read, hlow, hhigh]

/-- No tier's ID has the status bit, so the union is a sum (R108). -/
theorem statusByte_eq_add (s : State) :
    statusByte s = sid s.variant + (if s.host.pos = 0 then 0 else 4) := by
  by_cases hpos : s.host.pos = 0
  · rw [statusByte_of_pos_zero hpos, if_pos hpos]
    exact (BitVec.add_zero _).symm
  · rw [statusByte_of_pos_ne_zero hpos, if_neg hpos]
    cases s.variant <;> rfl

/-- Settles O28: `subRegisterRead_eq_ite` with its conditions and its bytes as numbers. -/
theorem indexedRead : Obligations.IndexedRead := by
  refine ⟨decodeWord_read 0xA, fun s => (exec_rdIdx_eq s).trans ?_⟩
  simp only [subRegisterRead_eq_ite, subRegGate_iff, subAddress_eq_iff, hasCr4_iff, cr3Read_eq, statusByte_eq_add]
  rfl

/-! ### Code 0xB -/

/-- The byte a read at code 0xB delivers: one below the counter (R105, R176). -/
theorem loadCursor_cursorReadIndex (s : State) :
    loadCursor s (cursorSelect s (cursorReadIndex s)) =
      if s.variant ≠ .v0 ∧ s.host.curSize = .size64 then readByte s.cur64 ((s.host.addr.toNat + 1023) % 1024)
      else readByte s.cur32 ((s.host.addr.toNat + 1023) % 1024 % 256) := by
  rw [cursorSelect_eq, toNat_cursorReadIndex]
  split <;> rfl

/-- What RD.CRAM leaves (R176): the byte delivered, the counter advanced. -/
theorem exec_rdCram_eq (s : State) :
    exec .rdCram s = .next { s with
      events := []
      readData := some (if s.variant ≠ .v0 ∧ s.host.curSize = .size64
        then readByte s.cur64 ((s.host.addr.toNat + 1023) % 1024)
        else readByte s.cur32 ((s.host.addr.toNat + 1023) % 1024 % 256))
      host := { s.host with
        addr := BitVec.ofNat 10 ((s.host.addr.toNat + 1) % (if s.variant = .v0 then 256 else 1024)) } } := by
  rw [← loadCursor_cursorReadIndex, ← nextAddr_eq]
  rfl

/-- Settles O32: `exec_rdCram_eq` is the rule in the spec's arithmetic. -/
theorem cursorRamRead : Obligations.CursorRamRead :=
  ⟨decodeWord_read 0xB, exec_rdCram_eq⟩

/-- One below the counter that a write at code 0x3 leaves is the index it loaded, on a tier with cr3 bits (R123, R176). -/
theorem below_nextAddr_orCr3Bits_byte {v : Variant} (hv : v ≠ .v0) (c d : Byte) :
    ((nextAddr v (orCr3Bits v c (d.setWidth 10))).toNat + 1023) % 1024 = d.toNat + c.toNat % 4 * 256 := by
  have hd := d.isLt
  rw [toNat_nextAddr, toNat_orCr3Bits_byte, if_neg hv, if_neg hv]
  omega

/-- In CUR32 the index one below is the byte itself on every tier, whatever cr3 (R105). -/
theorem below_nextAddr_orCr3Bits_byte_mod (v : Variant) (c d : Byte) :
    ((nextAddr v (orCr3Bits v c (d.setWidth 10))).toNat + 1023) % 1024 % 256 = d.toNat := by
  have hd := d.isLt
  have hlow := toNat_nextAddr_orCr3Bits_byte_mod v c d
  omega

/-- Settles O33: the write leaves the counter one above the index loaded, and the read goes one below the counter. -/
theorem cursorReadAfterReadIndex : Obligations.CursorReadAfterReadIndex := by
  intro d s
  refine ⟨_, _, exec_wrPri_eq d s, exec_rdCram_eq _, congrArg some ?_⟩
  by_cases hb : s.variant ≠ .v0 ∧ s.host.curSize = .size64
  · simp only [if_pos hb, below_nextAddr_orCr3Bits_byte hb.1]
  · simp only [if_neg hb, below_nextAddr_orCr3Bits_byte_mod]

/-! ### Codes 0xC to 0xF -/

/-- Settles O39: each rule hands its state back, with the low byte or the high nibble of the counter as a number. -/
theorem cursorCounterReads : Obligations.CursorCounterReads := by
  refine ⟨fun x => ⟨decodeWord_read 0xC x, decodeWord_read 0xD x, decodeWord_read 0xE x, decodeWord_read 0xF x⟩,
    fun s => ?_⟩
  simp only [← toNat_counterLow, ← toNat_counterHigh, BitVec.ofNat_toNat, BitVec.setWidth_eq]
  exact ⟨completeRead_pure (fun u => counterLow u.curXcnt) s, completeRead_pure (fun u => counterHigh u.curXcnt) s,
    completeRead_pure (fun u => counterLow u.curYcnt) s, completeRead_pure (fun u => counterHigh u.curYcnt) s⟩

end Sys2Proof.Machine

/-! No transaction and no run stops (R220, R235): settles O41 and O51. -/

namespace Sys2Proof.Machine

open Sys2Proof

/-! ### Every transaction completes -/

/-- Of the transactions the block handles itself, a read, and only a read, delivers a byte (R11, R80). -/
theorem Effect.readData_isSome {i : Instr} {s t : State} (h : Effect s i t) (hd : delegated i = false) :
    t.readData.isSome = i.isRead := by
  cases h with
  | hostCall hi => exact absurd hi (ne_true_of_eq_false hd)
  | plainRead hi => exact hi.symm
  | counterX hi | counterY hi =>
    obtain hi | hi : place i = _ ∨ place i = _ := by simpa using hi
    all_goals exact (congrArg Prod.fst hi).symm
  | _ => rfl

/-- Settles O41: the six rules handed to the host are records that name the byte or its absence, and the others complete
with an effect. -/
theorem everyTransactionCompletes : Obligations.EveryTransactionCompletes := by
  intro i s
  cases i with
  | wrPwi | wrPd | wrPmask | rdPwi | rdPd | rdPmask => exact ⟨_, rfl, rfl⟩
  | _ =>
    obtain ⟨t, ht, heff⟩ := exec_effect _ s
    exact ⟨t, ht, heff.readData_isSome rfl⟩

/-! ### A run with a host that keeps its duty -/

/-- A step takes the host's next input, if there is one, and does not stop: a transaction completes (R220), and a change
within the width is taken (R230). -/
theorem step_takes_next_input {s : State} (hs : s.HostKeepsDuty) :
    ∃ u, step s = .next u ∧ u.inputs = s.inputs.tail ∧ u.variant = s.variant := by
  cases hin : s.inputs with
  | nil => exact ⟨s, by simp only [step, hin], hin, rfl⟩
  | cons x rest =>
    cases x with
    | transaction x =>
      obtain ⟨u, hu, heff⟩ := exec_effect (decodeTxn x) { s with inputs := rest }
      exact ⟨u, by simp only [step, hin, hu], heff.hostSide_eq.1, heff.variant_eq⟩
    | sets g =>
      have hduty : hostDuty s.variant g = true := hs (.sets g) (by simp [hin])
      exact ⟨{ s with inputs := rest, host := g }, by simp only [step, hin, hduty, if_true], rfl, rfl⟩
    | table n => exact ⟨{ s with inputs := rest, e6Table := n }, by simp only [step, hin], rfl, rfl⟩

/-- The duty speaks of the pending inputs and the tier, so a step that takes an input passes it on. -/
theorem hostKeepsDuty_of_tail {s u : State} (hs : s.HostKeepsDuty) (hin : u.inputs = s.inputs.tail)
    (hv : u.variant = s.variant) : u.HostKeepsDuty := by
  intro x hx
  rw [hv]
  exact hs x (List.mem_of_mem_tail (hin ▸ hx))

/-- Settles O51, by induction on the number of steps: each takes one input and hands the duty on to the rest. -/
theorem runsNeverStop : Obligations.RunsNeverStop := by
  intro k
  induction k with
  | zero => exact fun s _ => ⟨s, rfl, rfl, rfl⟩
  | succ k ih =>
    intro s hs
    obtain ⟨u, hstep, hin, hv⟩ := step_takes_next_input hs
    obtain ⟨t, hrun, htin, htv⟩ := ih u (hostKeepsDuty_of_tail hs hin hv)
    refine ⟨t, (run_succ_of_next hstep k).trans hrun, ?_, htv.trans hv⟩
    rw [htin, hin, List.drop_tail]

end Sys2Proof.Machine

/-! The sources of a timing recalculation (R224): settles O42. Several instances (R233): settles O52. -/

namespace Sys2Proof.Machine

open Sys2Proof

/-! ### The event list of a transaction -/

/-- Outside the four codes of R224 a transaction requests nothing, and no read does. -/
theorem Effect.events_eq_nil {i : Instr} {s t : State} (h : Effect s i t)
    (hi : place i ∉ [(false, 0x5), (false, 0x8), (false, 0x9), (false, 0xA)]) : t.events = [] := by
  cases h with
  | blueByte | wrCr1 | wrCr2 | cr3Write => exact absurd (of_decide_eq_true rfl) hi
  | _ => rfl

/-- A write at code 0x5 requests one when it completes entry 0 with overscan enabled and the overscan colour changes
(R126, R224). -/
theorem events_wrEpd {d : Byte} {s t : State} (h : exec (.wrEpd d) s = .next t) :
    t.events = if s.phase = .p2 ∧ s.extAddr.toNat % 4 = 0 ∧ s.host.ovEn = true ∧ t.host.overscan ≠ s.host.overscan
      then [.recalc] else [] := by
  obtain ⟨-, hexec⟩ := extendedPaletteDataWrite d s
  rw [← Host.Outcome.next.inj (hexec.symm.trans h)]
  cases hp : s.phase with
  | p0 | p1 => rfl
  | p2 =>
    by_cases hc : s.extAddr.toNat % 4 = 0 ∧ s.host.ovEn = true <;> simp [hc]

/-- A write at code 0xA requests one when it writes cr3 (R134, R224). -/
theorem events_wrIdx {d : Byte} {s t : State} (h : exec (.wrIdx d) s = .next t) :
    t.events = if s.variant ≠ .v0 ∧ 128 ≤ s.cr0.toNat ∧ s.host.addr.toNat % 256 = 1 then [.recalc] else [] := by
  obtain ⟨-, hexec⟩ := indexedWrite d s
  rw [← Host.Outcome.next.inj (hexec.symm.trans h)]
  by_cases hw : (s.variant ≠ .v0 ∧ 128 ≤ s.cr0.toNat) ∧ s.host.addr.toNat % 256 = 1
  · rw [if_pos hw, if_pos (and_assoc.mp hw)]
  · rw [if_neg hw, if_neg (mt and_assoc.mpr hw)]
    split <;> rfl

/-- Settles O42: the four codes one by one, and `Effect.events_eq_nil` for the rest. -/
theorem recalculationSources : Obligations.RecalculationSources := by
  intro i s t hexec
  cases i with
  | wrEpd d =>
    have hplace : place (.wrEpd d) = (false, 0x5) := rfl
    simp [hplace, events_wrEpd hexec]
  | wrCr1 d => rw [if_pos (.inr (.inl rfl)), ← Host.Outcome.next.inj hexec]; rfl
  | wrCr2 d => rw [if_pos (.inr (.inr (.inl rfl))), ← Host.Outcome.next.inj hexec]; rfl
  | wrIdx d =>
    have hplace : place (.wrIdx d) = (false, 0xA) := rfl
    simp [hplace, events_wrIdx hexec]
  | _ =>
    rw [if_neg (of_decide_eq_false rfl)]
    exact (effect_of_exec hexec).events_eq_nil (of_decide_eq_false rfl)

/-! ### Several instances -/

/-- Settles O52: the list with `t` at place `k`, by the library's laws of `List.set`. -/
theorem instancesShareNothing : Obligations.InstancesShareNothing := by
  intro k sys s t hk hstep
  obtain ⟨hlt, -⟩ := List.getElem?_eq_some_iff.mp hk
  exact ⟨sys.set k t, by simp only [stepInstance, hk, hstep], List.length_set, List.getElem?_set_self hlt,
    fun j hj => List.getElem?_set_ne hj.symm⟩

end Sys2Proof.Machine

/-! A cursor byte stored and read back (R264, R266): settles O34. The host's changes between transactions (R230, R261):
settles O9. The order of the writes of cr1 and cr2 (R268): settles O26. -/

namespace Sys2Proof.Machine

open Sys2Proof

/-! ### Store, load the index, read -/

/-- The counter's low byte under cr3 bits 1:0 is the whole counter when those bits are the counter's own (R266). -/
theorem low_byte_add_cr3_bits {a : BitVec 10} {c : Byte} (h : a.toNat / 256 = c.toNat % 4) :
    (a.setWidth 8).toNat + c.toNat % 4 * 256 = a.toNat := by
  rw [BitVec.toNat_setWidth, ← h]
  exact Nat.mod_add_div' a.toNat 256

/-- Settles O34: by O33 the load and the read deliver the byte at the index stored to, and `readByte_writeByte_wf` says
which byte that is. -/
theorem cursorWriteIsReadBack : Obligations.CursorWriteIsReadBack := by
  intro x s h32 h64 hcr3
  have hwr := exec_wrCram_eq x s
  obtain ⟨u, v, hpri, hrd, hread⟩ := cursorReadAfterReadIndex (s.host.addr.setWidth 8) _
  refine ⟨_, u, v, hwr, hpri, hrd, hread.trans (congrArg some ?_)⟩
  by_cases hb : s.variant ≠ .v0 ∧ s.host.curSize = .size64
  · simp only [if_pos hb, low_byte_add_cr3_bits (hcr3 hb.1 hb.2), readByte_writeByte_wf h64, if_true]
  · simp only [if_neg hb, BitVec.toNat_setWidth, readByte_writeByte_wf h32, if_true]

/-! ### The host between transactions -/

/-- The host keeps its duty except on V0 with a counter past its 8 bits (R230, D23). -/
theorem hostDuty_iff_not (v : Variant) (h : HostShared) :
    hostDuty v h = true ↔ ¬(v = .v0 ∧ 256 ≤ h.addr.toNat) := by
  rw [hostDuty_iff, not_and, Nat.not_le]

/-- Settles O9: one arm of the step for each thing the host may do besides a transaction; only a change of the shared
fields is held to the duty. -/
theorem stepTakesHostChanges : Obligations.StepTakesHostChanges := by
  refine ⟨fun h rest s hin => ?_, fun n rest s hin => ?_, fun s hin => ?_⟩
  · simp only [step, hin]
    rw [if_congr (hostDuty_iff_not s.variant h) rfl rfl, ite_not]
  · simp only [step, hin]
  · simp only [step, hin]

/-! ### Command registers 1 and 2 -/

/-- What WR.CR1 leaves (R131). -/
theorem exec_wrCr1_eq (d : Byte) (s : State) :
    exec (.wrCr1 d) s = .next { s with
      events := [.recalc], readData := none, cr1 := d, host := { s.host with bpp := resolveDepth d s.cr2 } } := rfl

/-- What WR.CR2 leaves (R132). -/
theorem exec_wrCr2_eq (d : Byte) (s : State) :
    exec (.wrCr2 d) s = .next { s with
      events := [.recalc], readData := none, cr2 := d
      host := { s.host with curEnable := d &&& 0x3#8 != 0#8, bpp := resolveDepth s.cr1 d } } := rfl

/-- Settles O26: each write sets its own fields and resolves the depth from both registers as they then stand, so the
second of either order resolves it from `a` and `b`. -/
theorem depthDoesNotDependOnWriteOrder : Obligations.DepthDoesNotDependOnWriteOrder := fun a b s =>
  ⟨_, _, _, _, exec_wrCr1_eq a s, exec_wrCr2_eq b _, exec_wrCr2_eq b s, exec_wrCr1_eq a _, rfl⟩

end Sys2Proof.Machine

/-! Encoding and decoding (R82, R84, R100): settles O1, O2, O5 and O6. -/

namespace Sys2Proof

open Sys2Proof.Machine

/-! ### From a transaction to its word and back -/

theorem decodeWord_encode (i : Instr) : decodeWord (encode i) = i := by
  rw [← instrAt_code_access i]
  cases i.access with
  | write d =>
    change decodeWord (encode (writeAt i.code d)) = writeAt i.code d
    rw [encode_writeAt, decodeWord_write]
  | read =>
    change decodeWord (encode (readAt i.code)) = readAt i.code
    rw [encode_readAt, ← BitVec.or_zero (x := i.code.setWidth 13 <<< 8)]
    exact decodeWord_read i.code 0

/-- A word's five high bits in a byte of their own leave that byte's top three bits 0 and are its low five (log 16). -/
theorem highByte_fields (x : BitVec 5) :
    (x.setWidth 8 : Byte).extractLsb' 5 3 = 0 ∧ (x.setWidth 8 : Byte).extractLsb' 0 5 = x := by
  revert x
  decide

/-- The two bytes of a word are read back as the word, and what follows them is left (log 16). -/
theorem wordOfBytes_of_word (t : TxnWord) (rest : List Byte) :
    wordOfBytes (t.extractLsb' 0 8 :: (t.extractLsb' 8 5).setWidth 8 :: rest) = .ok (t, rest) := by
  obtain ⟨htop, hlow⟩ := highByte_fields (t.extractLsb' 8 5)
  have hjoin : t.extractLsb' 8 5 ++ t.extractLsb' 0 8 = t := by
    have happend : t.extractLsb' 8 5 ++ t.extractLsb' 0 8 = t.extractLsb' 0 13 :=
      BitVec.extractLsb'_append_extractLsb'_eq_extractLsb' rfl
    rw [happend, BitVec.extractLsb'_eq_self]
  rw [wordOfBytes, if_pos htop, hlow, hjoin]

theorem decodeBytes_encodeBytes (i : Instr) (rest : List Byte) :
    decodeBytes (encodeBytes i ++ rest) = .ok (i, rest) := by
  have hbytes : wordOfBytes (encodeBytes i ++ rest) = .ok (encode i, rest) := wordOfBytes_of_word (encode i) rest
  simp only [decodeBytes, hbytes, decodeWord_encode]

theorem decodeTableWord_encode (i : Instr) : decodeTableWord 16 (encode i).toNat = some i := by
  rw [decodeTableWord, tableWord_toNat, Option.map_some, decodeWord_encode]

/-- Settles O1: each route reads the encoded word, and `decodeWord_encode` brings the transaction back from it. -/
theorem decodeOfEncodeIsIdentity : Obligations.DecodeOfEncodeIsIdentity := fun i rest =>
  ⟨decodeWord_encode i, (decodeTxn_txnOfWord _).trans (decodeWord_encode i), decodeBytes_encodeBytes i rest,
    decodeTableWord_encode i⟩

/-! ### From a word to its transaction and back -/

theorem encode_decodeWord_of_write {t : TxnWord} (h : t.getLsbD 12 = true) : encode (decodeWord t) = t := by
  have hdec : decodeWord t = writeAt (t.extractLsb' 8 4) (t.extractLsb' 0 8) := by
    rw [decodeWord, wordAccess, if_pos h]
    rfl
  apply BitVec.eq_of_toNat_eq
  rw [hdec, toNat_encode_writeAt, toNat_eq_fields t, h, Bool.toNat_true]

/-- The mask keeps everything above the data byte (R82). -/
theorem toNat_and_0x1F00 (t : TxnWord) : (t &&& (0x1F00 : TxnWord)).toNat = t.toNat / 256 * 256 := by
  have hmask : ∀ k < 13, (0x1F00 : TxnWord).getLsbD k = !decide (k < 8) := by decide
  have hshift : t &&& (0x1F00 : TxnWord) = (t >>> 8) <<< 8 := by
    apply BitVec.eq_of_getLsbD_eq
    intro k hk
    rw [BitVec.getLsbD_and, hmask k hk, BitVec.getLsbD_shiftLeft, BitVec.getLsbD_ushiftRight]
    by_cases h8 : k < 8
    · simp [h8]
    · simp [h8, hk, Nat.add_sub_of_le (Nat.le_of_not_lt h8)]
  have ht := t.isLt
  rw [hshift, BitVec.toNat_shiftLeft, BitVec.toNat_ushiftRight, Nat.shiftRight_eq_div_pow, Nat.shiftLeft_eq]
  omega

theorem encode_decodeWord_of_read {t : TxnWord} (h : t.getLsbD 12 = false) :
    encode (decodeWord t) = t &&& 0x1F00 := by
  have hdec : decodeWord t = readAt (t.extractLsb' 8 4) := by
    rw [decodeWord, wordAccess, h]
    rfl
  have hfields := toNat_eq_fields t
  rw [h, Bool.toNat_false] at hfields
  have hdata := (t.extractLsb' 0 8).isLt
  apply BitVec.eq_of_toNat_eq
  rw [hdec, toNat_encode_readAt, toNat_and_0x1F00]
  omega

/-- The data byte of a word is 0 exactly when clearing it changes nothing. -/
theorem data_eq_zero_iff (t : TxnWord) : t.extractLsb' 0 8 = 0 ↔ t &&& 0x1F00 = t := by
  have hdata : (t.extractLsb' 0 8).toNat = t.toNat % 256 := by rw [BitVec.extractLsb'_toNat, Nat.shiftRight_zero]
  rw [← BitVec.toNat_inj, ← BitVec.toNat_inj, toNat_and_0x1F00, hdata]
  change t.toNat % 256 = 0 ↔ _
  omega

/-- Settles O2: a write comes back whole, a read without its data bits, which are 0 in a canonical read. -/
theorem encodeOfDecodeIsCanonical : Obligations.EncodeOfDecodeIsCanonical := by
  intro t
  cases h : t.getLsbD 12 with
  | true => simp [TxnWord.canonical, h, encode_decodeWord_of_write h]
  | false =>
    have hcanon : TxnWord.canonical t = true ↔ t.extractLsb' 0 8 = 0 := by
      rw [TxnWord.canonical, h, Bool.false_or, beq_iff_eq]
    rw [encode_decodeWord_of_read h, hcanon, data_eq_zero_iff]
    exact ⟨rfl, Iff.rfl⟩

/-! ### The dispatcher's table (R100) -/

/-- The writes in the order of their codes (R84, R100). -/
def writesByCode (d : Byte) : List Instr :=
  [.wrPwi d, .wrPd d, .wrPmask d, .wrPri d, .wrEpwi d, .wrEpd d, .wrCr0 d, .wrEpri d, .wrCr1 d, .wrCr2 d, .wrIdx d,
    .wrCram d, .wrCxl d, .wrCxh d, .wrCyl d, .wrCyh d]

/-- The reads in the order of their codes (R84, R100). -/
def readsByCode : List Instr :=
  [.rdPwi, .rdPd, .rdPmask, .rdPri, .rdEpwi, .rdEpd, .rdCr0, .rdEpri, .rdCr1, .rdCr2, .rdIdx, .rdCram, .rdCxl, .rdCxh,
    .rdCyl, .rdCyh]

/-- The transaction of either direction at a code is the table's row of that number. -/
theorem instrAt_eq_getElem? (rs : RegSel) (d : Byte) :
    some (instrAt rs (.write d)) = (writesByCode d)[rs.toNat]? ∧
      some (instrAt rs .read) = readsByCode[rs.toNat]? := by
  obtain ⟨n, hn, rfl⟩ : ∃ n < 16, rs = BitVec.ofNat 4 n := ⟨rs.toNat, rs.isLt, by simp⟩
  interval_cases n <;> exact ⟨rfl, rfl⟩

/-- Settles O5: the code of the pins by O4, and the row at a code. -/
theorem dispatcherTable : Obligations.DispatcherTable := by
  intro sel2 sel3 offset d rs
  have hcode : (registerSelect sel2 sel3 offset).toNat = rs := (registerSelectFormula sel2 sel3 offset).1
  rw [← hcode]
  exact instrAt_eq_getElem? (registerSelect sel2 sel3 offset) d

/-- Settles O6: twelve closed words, each decoded. -/
theorem sampleWordsDecode : Obligations.SampleWordsDecode := by
  unfold Obligations.SampleWordsDecode
  decide

end Sys2Proof

/-! The step on a presented transaction and on a placed word (R81, R100, log 1): settles O7 and O8. -/

namespace Sys2Proof.Machine

open Sys2Proof

/-- Settles O7: it is the step's arm for a transaction. -/
theorem stepRunsPresentedTransaction : Obligations.StepRunsPresentedTransaction := by
  intro t rest s hin
  simp only [step, hin]

/-- A transaction word placed as the next instruction is what the next step runs, on the state without it. -/
theorem step_withFetchWord {nbits w : Nat} {t : TxnWord} (h : tableWord nbits w = some t) (s : State) :
    step (s.withFetchWord nbits w) = exec (decodeWord t) s := by
  have hplaced : s.withFetchWord nbits w = { s with inputs := .transaction (txnOfWord t) :: s.inputs } := by
    simp only [State.withFetchWord, h]
  rw [hplaced, stepRunsPresentedTransaction (txnOfWord t) s.inputs _ rfl, decodeTxn_txnOfWord]

/-- A word of 13 bits given as such is read as it is from two bytes: the bits above bit 12 are 0 either way. -/
theorem tableWord_thirteen_toNat (t : TxnWord) : tableWord 13 t.toNat = some t := by
  have hbytes : tableBytes 13 t.toNat = tableBytes 16 t.toNat := by
    have ht := t.isLt
    have h13 : t.toNat % 2 ^ 13 = t.toNat := Nat.mod_eq_of_lt ht
    have h16 : t.toNat % 2 ^ 16 = t.toNat := Nat.mod_eq_of_lt (by omega)
    rw [tableBytes, tableBytes, h13, h16]
  rw [← tableWord_toNat t, tableWord, tableWord, hbytes]
  rfl

/-- Settles O8: both numberings place the word itself. -/
theorem stepRunsPlacedWord : Obligations.StepRunsPlacedWord := fun t s =>
  ⟨step_withFetchWord (tableWord_toNat t) s, step_withFetchWord (tableWord_thirteen_toNat t) s⟩

end Sys2Proof.Machine

/-! The transactions handed to the host (R120 to R122, R160 to R162): settles O10 and O11. -/

namespace Sys2Proof.Machine

open Sys2Proof

theorem cr3AddrBits_eq (c : Byte) : cr3AddrBits c = BitVec.ofNat 10 (c.toNat % 4 * 256) := by
  rw [← toNat_cr3AddrBits, BitVec.ofNat_toNat, BitVec.setWidth_eq]

/-- The union with cr3's bits, on V1 and above (R120). -/
theorem orCr3Bits_eq (v : Variant) (c : Byte) (a : BitVec 10) :
    orCr3Bits v c a = if v = .v0 then a else a ||| BitVec.ofNat 10 (c.toNat % 4 * 256) := by
  rw [orCr3Bits, cr3AddrBits_eq]
  cases v <;> rfl

/-- Settles O10: the three rules are the host's write at offset 0, 1 or 2, and the first ORs cr3's bits in after it. -/
theorem hostPaletteWritesComplete : Obligations.HostPaletteWritesComplete := by
  intro d s
  simp only [← orCr3Bits_eq, ← and_amask_eq]
  exact ⟨rfl, rfl, rfl⟩

/-- Settles O11: the three rules are the host's read at offset 0, 1 or 2. -/
theorem hostPaletteReadsComplete : Obligations.HostPaletteReadsComplete := by
  intro s
  simp only [← and_amask_eq]
  exact ⟨rfl, rfl, rfl⟩

end Sys2Proof.Machine

/-! Three writes at code 0x5 (R125, R127): settles O18. A command register read after a write of it (S-1): settles
O25. -/

namespace Sys2Proof.Machine

open Sys2Proof

/-! ### One entry loaded -/

/-- The first byte of three is staged, and the status cleared (R125). -/
theorem exec_wrEpd_of_p0 {s : State} (hp : s.phase = .p0) (d : Byte) :
    exec (.wrEpd d) s = .next { s with
      events := [], readData := none, host := { s.host with status := 0 }, stR := d, phase := .p1 } := by
  obtain ⟨-, h⟩ := extendedPaletteDataWrite d s
  rwa [hp] at h

/-- So is the second (R125). -/
theorem exec_wrEpd_of_p1 {s : State} (hp : s.phase = .p1) (d : Byte) :
    exec (.wrEpd d) s = .next { s with
      events := [], readData := none, host := { s.host with status := 0 }, stG := d, phase := .p2 } := by
  obtain ⟨-, h⟩ := extendedPaletteDataWrite d s
  rwa [hp] at h

/-- The third stores the entry, whatever becomes of the overscan colour (R125, R126). -/
theorem exec_wrEpd_of_p2 {s : State} (hp : s.phase = .p2) (d : Byte) :
    ∃ v, exec (.wrEpd d) s = .next v ∧
      v.extPal = s.extPal.setIfInBounds (s.extAddr.toNat % 4)
        { r := s.stR, g := s.stG, b := d, packed := packColour s.host.prec8 s.e6Table s.stR s.stG d } ∧
      v.extAddr = s.extAddr + 1 ∧ v.phase = .p0 ∧ v.stR = s.stR ∧ v.stG = s.stG ∧ v.host.status = 0 ∧
      v.host.pos = s.host.pos := by
  obtain ⟨-, h⟩ := extendedPaletteDataWrite d s
  rw [hp] at h
  exact ⟨_, h, rfl, (byte_add_one_eq s.extAddr).symm, rfl, rfl, rfl, rfl, rfl⟩

/-- The entries of a palette in which one was replaced. -/
theorem palEntry_of_setIfInBounds {s v : State} {n : Nat} {e : PalEntry} (h : v.extPal = s.extPal.setIfInBounds n e)
    (j : BitVec 2) : palEntry v j = if j.toNat = n then e else palEntry s j := by
  simp only [palEntry, h, Vector.getElem_setIfInBounds, @eq_comm _ n]

/-- Settles O18: the three writes in turn, the third of which finds `r` and `g` staged. -/
theorem threeWritesLoadOneEntry : Obligations.ThreeWritesLoadOneEntry := by
  intro r g b s hp
  obtain ⟨v, hv, hpal, hrest⟩ := exec_wrEpd_of_p2 (s := { s with
    events := [], readData := none, host := { s.host with status := 0 }, stR := r, stG := g, phase := .p2 }) rfl b
  exact ⟨_, _, v, exec_wrEpd_of_p0 hp r, exec_wrEpd_of_p1 rfl g, hv, palEntry_of_setIfInBounds hpal, hrest⟩

/-! ### A command register written and read -/

/-- A register that one code alone writes: after a write of it and any one transaction at another code, a read of it
delivers the byte written. -/
theorem read_after_write_and_another {reg : State → Byte} {c : RegSel} {wr rd i : Instr} {d : Byte} {s : State}
    (hwr : ∃ t, exec wr s = .next t ∧ reg t = d)
    (hwriter : ∀ {t u : State}, Effect t i u → reg u ≠ reg t → place i = (false, c))
    (hrd : ∀ u, exec rd u = .next { u with events := [], readData := some (reg u) }) (hi : i.code ≠ c) :
    ∃ t u v, exec wr s = .next t ∧ exec i t = .next u ∧ exec rd u = .next v ∧ v.readData = some d := by
  obtain ⟨t, ht, hreg⟩ := hwr
  obtain ⟨u, hu, heff⟩ := exec_effect i t
  have hkept : reg u = reg t := by_contra fun hne => hi (congrArg Prod.snd (hwriter heff hne))
  exact ⟨t, u, _, ht, hu, hrd u, congrArg some (hkept.trans hreg)⟩

/-- Settles O25: each of the three registers has its write as the only writer. -/
theorem commandRegistersHoldTheLastByteWritten : Obligations.CommandRegistersHoldTheLastByteWritten := fun _ _ _ =>
  ⟨read_after_write_and_another (reg := State.cr0) ⟨_, rfl, rfl⟩ Effect.cr0_writer
      (completeRead_pure State.cr0),
    read_after_write_and_another (reg := State.cr1) ⟨_, rfl, rfl⟩ Effect.cr1_writer
      (completeRead_pure State.cr1),
    read_after_write_and_another (reg := State.cr2) ⟨_, rfl, rfl⟩ Effect.cr2_writer
      (completeRead_pure State.cr2)⟩

end Sys2Proof.Machine
